-- ==== Sys2Proof/Word.lean ====
section
/-! DEFINITION. The word types of the block (00_scope.md R12). -/

namespace Sys2Proof

/-- `u8` of R12: the width of every register byte, buffer byte and operand. -/
abbrev Byte := BitVec 8

/-- `u16` of R12: `ARG_R`, `ARG_IT`, `RET_SIZE`, `RX_CNT` and register-interface offsets (R60). -/
abbrev Half := BitVec 16

end Sys2Proof
end

