-- ==== Sys2Proof/Machine/Bytes.lean ====
section
/-! DEFINITION. Bytes of 16-bit quantities (20_memory.md R68, R69) and the checksum functions (40_checksum.md R120 to
R122). -/

namespace Sys2Proof.Machine

/-- Bits 7:0 of a 16-bit quantity: the byte at the lower offset (R69). -/
def loByte (h : Half) : Byte := h.setWidth 8

/-- Bits 15:8 of a 16-bit quantity: the byte at the higher offset (R69). -/
def hiByte (h : Half) : Byte := (h >>> 8).setWidth 8

/-- `{hi, lo}` of R12. -/
def pairBytes (hi lo : Byte) : Half := hi ++ lo

/-- `Sum8(S)` (R120): the unsigned 8-bit sum with wrap-around. -/
def sum8 : List Byte → Byte
  | [] => 0
  | b :: bs => b + sum8 bs

/-- `(256 - v) mod 256`, the two's-complement negation in 8 bits (R121, R127). -/
def negByte (v : Byte) : Byte := -v

/-- `Checksum8(S)` (R121). -/
def checksum8 (bs : List Byte) : Byte := negByte (sum8 bs)

/-- `Valid8(F)` (R122): the sum over the full frame, checksum byte included, is zero. -/
def valid8 (bs : List Byte) : Bool := sum8 bs == 0

end Sys2Proof.Machine
end

