-- ==== Sys2Proof/Config.lean ====
section
/-! DEFINITION. The implementation parameters of 00_scope.md R9 to R11, the check that R10 puts on them, and the
values the spec leaves open. -/

namespace Sys2Proof

/-- `RDY_EDGE` of R9: which edge of the ready input sets the ready flag. -/
inductive EdgePolarity where
  | rising
  | falling
  | both
  deriving DecidableEq, Repr

/-- `CHANNEL` of R9: the transport kind, fixed for the instance. No block rule reads it (D8): it binds the host's
wait before `VALIDATE` (R149, R150, R276). -/
inductive Channel where
  | spi
  | uart
  deriving DecidableEq, Repr

/-- The host-side lengths of R11. The block never reads them: they size the fetch commands' frames (R96) and the
operands that a host program writes. -/
structure HostLengths where
  rHello : Nat
  rStandbyRx : Nat
  rGetSensorId : Nat
  rGetWavelength : Nat
  rAcqSpectrum : Nat
  rGetSpectrum : Nat
  rAcqXyz : Nat
  rGetXyz : Nat
  lGetSpectrum : Nat
  lGetXyz : Nat
  deriving DecidableEq, Repr

/-- The parameters of R9, and the host lengths of R11. None has a value in the source. -/
structure Params where
  prefix0 : Byte
  prefix1 : Byte
  fcHello : Byte
  fcStandby : Byte
  fcGetSensorId : Byte
  fcGetWavelength : Byte
  fcAcqSpectrum : Byte
  fcGetSpectrum : Byte
  fcAcqXyz : Byte
  fcGetXyz : Byte
  fcUnknown : Byte
  cmdCap : Nat
  retCap : Nat
  rStandby : Nat
  rdyEdge : EdgePolarity
  channel : Channel
  blockBase : Nat
  host : HostLengths
  deriving DecidableEq, Repr

/-- The nine function-code parameters, in the order of R9. -/
def Params.functionCodes (p : Params) : List Byte :=
  [p.fcHello, p.fcStandby, p.fcGetSensorId, p.fcGetWavelength, p.fcAcqSpectrum, p.fcGetSpectrum, p.fcAcqXyz,
    p.fcGetXyz, p.fcUnknown]

/-- R10: (a) the function codes are pairwise distinct, (b) `10 <= CMD_CAP <= 255`, (c) `5 <= RET_CAP <= 1024`,
(d) `5 <= R_STANDBY <= RET_CAP`. The prefixes are unconstrained (e). -/
abbrev Params.legal (p : Params) : Bool :=
  decide (p.functionCodes.Nodup ∧ (10 ≤ p.cmdCap ∧ p.cmdCap ≤ 255) ∧ (5 ≤ p.retCap ∧ p.retCap ≤ 1024) ∧
    (5 ≤ p.rStandby ∧ p.rStandby ≤ p.retCap))

/-- The test instantiation T of D51 and 95_test_vectors.md, "illustrative only": the tests run on it. The host lengths
are those that programs P1 to P4 of 95_test_vectors.md pick. -/
def Params.illustrative : Params where
  prefix0 := 0xAA
  prefix1 := 0x55
  fcHello := 0x01
  fcStandby := 0x02
  fcGetSensorId := 0x03
  fcGetWavelength := 0x04
  fcAcqSpectrum := 0x05
  fcGetSpectrum := 0x06
  fcAcqXyz := 0x07
  fcGetXyz := 0x08
  fcUnknown := 0xFF
  cmdCap := 16
  retCap := 64
  rStandby := 5
  rdyEdge := .rising
  channel := .spi
  blockBase := 0
  host := { rHello := 5, rStandbyRx := 5, rGetSensorId := 10, rGetWavelength := 10, rAcqSpectrum := 5,
            rGetSpectrum := 8, rAcqXyz := 5, rGetXyz := 8, lGetSpectrum := 5, lGetXyz := 5 }

/-- A parameter set that obeys R10, with the proof that it does: "a model refuses a parameter set that breaks one".
The default values only show Lean that such a set exists. -/
structure LegalParams where
  params : Params := Params.illustrative
  legal : params.legal = true := by decide
  deriving DecidableEq, Repr, Inhabited

namespace Config

/-- The parameters of the instance that State.reset describes (R9: "each is OPEN"). Nothing is known of them but R10.
DESIGN CHOICE, safe (log 1). -/
opaque instanceParams : LegalParams

/-- `any u8` of R14 and R145: the `n`-th byte drawn freely, "under no law". DESIGN CHOICE, safe (log 6). -/
opaque anyByte : Nat → Byte

end Config

end Sys2Proof
end

