-- ==== Sys2Proof/Syntax.lean ====
section
/-! DEFINITION. The instructions of spec/opcode_table.json, one constructor a row, and the transactions that carry
them (30_encoding.md R97, R99, R102). -/

namespace Sys2Proof

/-- A transition of the sensor's ready line (60_exceptions.md R242). -/
inductive LineEdge where
  | rising
  | falling
  deriving DecidableEq, Repr

/-- The payload of an Acq command frame (30_encoding.md R92): integration time, frame-average count, auto-exposure
byte and the reserved byte, which a forwarded frame may carry with any value (R101(b)). -/
structure AcqPayload where
  it : Half
  avg : Byte
  ae : Byte
  reserved : Byte
  deriving DecidableEq, Repr

/-- The closed enumeration of function codes (R96). -/
inductive FunctionCode where
  | hello
  | standby
  | getSensorId
  | getWavelength
  | acqSpectrum
  | getSpectrum
  | acqXyz
  | getXyz
  | unknown
  deriving DecidableEq, Repr

/-- The instructions: one constructor for each row of the opcode table. -/
inductive Instr where
  /-- `NOP`, op code 0x00 (R220). -/
  | nop
  /-- `INIT`, op code 0x01 (R221). -/
  | init
  /-- `BUILD`, op code 0x02 (R141). -/
  | build
  /-- `PAYLOAD_ACQ`, op code 0x03 (R143). -/
  | payloadAcq
  /-- `XMIT`, op code 0x04 (R144). -/
  | xmit
  /-- `VALIDATE`, op code 0x05 (R152). -/
  | validate
  /-- `RESTORE`, op code 0x06 (R155). -/
  | restore
  /-- `SYNTH_STANDBY`, op code 0x07 (R156). -/
  | synthStandby
  /-- `RET_CLR`, op code 0x08 (R157). -/
  | retClr
  /-- `RDY_CLR`, op code 0x09 (R158). -/
  | rdyClr
  /-- `POLL`, op code 0x0A (R159). -/
  | poll
  /-- `FWD_DRAIN`, op code 0x0B (R200). -/
  | fwdDrain
  /-- `CS_CLR`, op code 0x0C (R125). -/
  | csClr
  /-- `RESERVED_OP`, op codes 0x0D to 0xFF (R222). -/
  | reservedOp (code : Byte)
  /-- `FWD_BYTE(b)`, a write of `b` to `FWD_DATA` (R191). -/
  | fwdByte (b : Byte)
  /-- `CS_ADD(b)`, a write of `b` to `CS_DATA` (R126). -/
  | csAdd (b : Byte)
  /-- `RegRead(off)` (R70). -/
  | regRead (off : Half)
  /-- `RegWrite(off, v)` (R71). -/
  | regWrite (off : Half) (v : Byte)
  /-- `RX_BYTE(b)`, a step of the transport (R151). -/
  | rxByte (b : Byte)
  /-- `RDY_EDGE`, a step of the ready-trigger source (R242). -/
  | rdyEdge (e : LineEdge)
  /-- A Hello command frame (R91, R96). -/
  | frameHello (uc : Byte)
  /-- A Standby command frame (R91, R96). -/
  | frameStandby (uc : Byte)
  /-- A GetSensorId command frame (R91, R96). -/
  | frameGetSensorId (uc : Byte)
  /-- A GetWavelength command frame (R91, R96). -/
  | frameGetWavelength (uc : Byte)
  /-- An AcqSpectrum command frame (R92, R96). -/
  | frameAcqSpectrum (uc : Byte) (acq : AcqPayload)
  /-- A GetSpectrum command frame (R95, R96). -/
  | frameGetSpectrum (uc : Byte) (payload : List Byte)
  /-- An AcqXYZ command frame (R92, R96). -/
  | frameAcqXyz (uc : Byte) (acq : AcqPayload)
  /-- A GetXYZ command frame (R95, R96). -/
  | frameGetXyz (uc : Byte) (payload : List Byte)
  /-- A frame that carries the Unknown sentinel: "not a command" (R96). -/
  | frameUnknown (uc : Byte) (payload : List Byte)
  deriving DecidableEq, Repr

/-- One step of one agent on the block, as it reaches the block's ports (R8, R102). -/
inductive Transaction where
  /-- `(W, off, v)`: a host write of one byte. -/
  | hostWrite (off : Half) (v : Byte)
  /-- `(R, off, -)`: a host read of one byte. -/
  | hostRead (off : Half)
  /-- The line `rx v`: the transport delivers one byte. -/
  | rx (b : Byte)
  /-- The line `edge`: a transition of the ready line. -/
  | readyEdge (e : LineEdge)
  /-- A whole command frame that an upstream controller relays: its bytes, first one first, fed to the forward framer
  (R103(c), log 4). -/
  | relay (bytes : List Byte)
  deriving DecidableEq, Repr

/-- Why bytes offered as a command frame are none (R90, R96). -/
inductive FrameReject where
  /-- Fewer than the four header bytes and the checksum byte. -/
  | short
  /-- The first two bytes are not the prefix pair. -/
  | badPrefix
  /-- The checksum byte is not `Checksum8` of the bytes before it. -/
  | badChecksum
  /-- Byte 2 is no member of the enumeration. -/
  | notAFunctionCode
  /-- The length is not the one of the function code. -/
  | badLength
  deriving DecidableEq, Repr

end Sys2Proof
end

