-- ==== Sys2Proof/Machine/Frames.lean ====
section
/-! DEFINITION. Frame formats and function codes (30_encoding.md R90 to R96), the framer's length lookup
(42_forward_framer.md R190) and the fetch mapping (41_packet_builder.md R160). -/

namespace Sys2Proof.Machine

/-- The numeric value of a function code (R96): a parameter. -/
def codeValue (p : Params) : FunctionCode → Byte
  | .hello => p.fcHello
  | .standby => p.fcStandby
  | .getSensorId => p.fcGetSensorId
  | .getWavelength => p.fcGetWavelength
  | .acqSpectrum => p.fcAcqSpectrum
  | .getSpectrum => p.fcGetSpectrum
  | .acqXyz => p.fcAcqXyz
  | .getXyz => p.fcGetXyz
  | .unknown => p.fcUnknown

/-- The member of the enumeration that a byte stands for, if any (R96). -/
def codeOfByte (p : Params) (b : Byte) : Option FunctionCode :=
  if b = p.fcHello then some .hello
  else if b = p.fcStandby then some .standby
  else if b = p.fcGetSensorId then some .getSensorId
  else if b = p.fcGetWavelength then some .getWavelength
  else if b = p.fcAcqSpectrum then some .acqSpectrum
  else if b = p.fcGetSpectrum then some .getSpectrum
  else if b = p.fcAcqXyz then some .acqXyz
  else if b = p.fcGetXyz then some .getXyz
  else if b = p.fcUnknown then some .unknown
  else none

/-- Column "command length `L`" of R96. The fetch commands' lengths are host parameters (R11, R95); Unknown is not a
command. -/
def commandLength (p : Params) : FunctionCode → Option Nat
  | .hello | .standby | .getSensorId | .getWavelength => some 5
  | .acqSpectrum | .acqXyz => some 10
  | .getSpectrum => some p.host.lGetSpectrum
  | .getXyz => some p.host.lGetXyz
  | .unknown => none

/-- The return length that the host supplies for a command (R11). -/
def hostReturnLength (p : Params) : FunctionCode → Option Nat
  | .hello => some p.host.rHello
  | .standby => some p.host.rStandbyRx
  | .getSensorId => some p.host.rGetSensorId
  | .getWavelength => some p.host.rGetWavelength
  | .acqSpectrum => some p.host.rAcqSpectrum
  | .getSpectrum => some p.host.rGetSpectrum
  | .acqXyz => some p.host.rAcqXyz
  | .getXyz => some p.host.rGetXyz
  | .unknown => none

/-- `FwdLen(fc)` (R190). -/
def fwdLen (p : Params) (fc : Byte) : Option Nat :=
  if fc = p.fcHello ∨ fc = p.fcStandby ∨ fc = p.fcGetSensorId ∨ fc = p.fcGetWavelength then some 5
  else if fc = p.fcAcqSpectrum ∨ fc = p.fcAcqXyz then some 10
  else none

/-- `Fetch(fc)` (R160). -/
def fetchCode (p : Params) (fc : Byte) : Option Byte :=
  if fc = p.fcAcqSpectrum then some p.fcGetSpectrum
  else if fc = p.fcAcqXyz then some p.fcGetXyz
  else none

/-- The four header bytes, the same in both directions (R90, R93). -/
def frameHeader (p : Params) (fc uc : Byte) : List Byte := [p.prefix0, p.prefix1, fc, uc]

/-- A byte sequence with its checksum appended: "`checksum` is appended, never included by the caller" (R90). -/
def sealFrame (body : List Byte) : List Byte := body ++ [checksum8 body]

/-- The frame of R90: header, payload, checksum. -/
def commandFrame (p : Params) (fc uc : Byte) (payload : List Byte) : List Byte :=
  sealFrame (frameHeader p fc uc ++ payload)

/-- The five payload bytes of an Acq command, in the order of R92: the integration time is little-endian. -/
def acqBytes (a : AcqPayload) : List Byte := [loByte a.it, hiByte a.it, a.avg, a.ae, a.reserved]

end Sys2Proof.Machine
end

