-- ==== Sys2Proof/WellFormed.lean ====
section
/-! DEFINITION. Which instruction terms stand for a row of the opcode table. -/

namespace Sys2Proof

open Machine (commandLength)

/-- An instruction is well formed under the parameters `p` when its operands lie in its row's range:
a `RESERVED_OP` code is 0x0D to 0xFF (R98), a plain register write is to no trigger offset (a write there is the
operation it starts, R97, R99), and a fetch command's frame has its host-side length (R95, R96). Every other operand
takes every value. The sentinel's frame has no length of its own (R96: "not a command"). -/
def wellFormed (p : Params) : Instr → Bool
  | .reservedOp code => decide (0x0D ≤ code.toNat)
  | .regWrite off _ => decide (off ≠ 0x000 ∧ off ≠ 0x00D ∧ off ≠ 0x017)
  | .frameGetSpectrum _ payload => decide (some (payload.length + 5) = commandLength p .getSpectrum)
  | .frameGetXyz _ payload => decide (some (payload.length + 5) = commandLength p .getXyz)
  | .nop | .init | .build | .payloadAcq | .xmit | .validate | .restore | .synthStandby | .retClr | .rdyClr | .poll
  | .fwdDrain | .csClr => true
  | .fwdByte _ | .csAdd _ | .regRead _ | .rxByte _ | .rdyEdge _ => true
  | .frameHello _ | .frameStandby _ | .frameGetSensorId _ | .frameGetWavelength _ => true
  | .frameAcqSpectrum _ _ | .frameAcqXyz _ _ => true
  | .frameUnknown _ _ => true

end Sys2Proof
end

