-- ==== Sys2Proof/Decode.lean ====
section
/-! DEFINITION. From a transaction to the instruction it carries, and back (30_encoding.md R90 to R102). -/

namespace Sys2Proof

open Machine

/-- The op-code map of R97. All 8 bits are compared; 0x0D to 0xFF are reserved (R98). -/
def decodeOp (v : Byte) : Instr :=
  match v.toNat with
  | 0x00 => .nop
  | 0x01 => .init
  | 0x02 => .build
  | 0x03 => .payloadAcq
  | 0x04 => .xmit
  | 0x05 => .validate
  | 0x06 => .restore
  | 0x07 => .synthStandby
  | 0x08 => .retClr
  | 0x09 => .rdyClr
  | 0x0A => .poll
  | 0x0B => .fwdDrain
  | 0x0C => .csClr
  | _ => .reservedOp v

/-- A host write: to `OP` it carries an op code (R97), to a data-trigger register the operand of its operation (R99),
elsewhere it is a plain register write (R71). -/
def decodeWrite (off : Half) (v : Byte) : Instr :=
  if off = 0x000 then decodeOp v
  else if off = 0x00D then .fwdByte v
  else if off = 0x017 then .csAdd v
  else .regWrite off v

/-- The Acq payload of R92, read from its five bytes. -/
def decodeAcq : List Byte → Option AcqPayload
  | [lo, hi, avg, ae, reserved] => some { it := pairBytes hi lo, avg, ae, reserved }
  | _ => none

/-- The frame row of a function code, if the payload has the row's length (R91, R92, R95, R96). -/
def decodePayload (p : Params) (f : FunctionCode) (uc : Byte) (payload : List Byte) : Option Instr :=
  match f with
  | .hello => if payload = [] then some (.frameHello uc) else none
  | .standby => if payload = [] then some (.frameStandby uc) else none
  | .getSensorId => if payload = [] then some (.frameGetSensorId uc) else none
  | .getWavelength => if payload = [] then some (.frameGetWavelength uc) else none
  | .acqSpectrum => (decodeAcq payload).map (.frameAcqSpectrum uc)
  | .acqXyz => (decodeAcq payload).map (.frameAcqXyz uc)
  | .getSpectrum =>
    if some (payload.length + 5) = commandLength p .getSpectrum then some (.frameGetSpectrum uc payload) else none
  | .getXyz => if some (payload.length + 5) = commandLength p .getXyz then some (.frameGetXyz uc payload) else none
  | .unknown => some (.frameUnknown uc payload)

/-- The command frame that a byte sequence is (R90), or why it is none. -/
def decodeFrame (p : Params) (bytes : List Byte) : Except FrameReject Instr :=
  match bytes with
  | b0 :: b1 :: fc :: uc :: chk :: rest =>
    if b0 ≠ p.prefix0 ∨ b1 ≠ p.prefix1 then .error .badPrefix
    else if valid8 bytes = false then .error .badChecksum
    else
      match codeOfByte p fc with
      | none => .error .notAFunctionCode
      | some f =>
        match decodePayload p f uc (chk :: rest).dropLast with
        | none => .error .badLength
        | some i => .ok i
  | _ => .error .short

/-- The instruction that a transaction carries. Every host access, received byte and ready edge carries one; only bytes
relayed as a frame may be none. -/
def decode (p : Params) : Transaction → Except FrameReject Instr
  | .hostWrite off v => .ok (decodeWrite off v)
  | .hostRead off => .ok (.regRead off)
  | .rx b => .ok (.rxByte b)
  | .readyEdge e => .ok (.rdyEdge e)
  | .relay bytes => decodeFrame p bytes

/-- The op code of R97, written to `OP`. -/
def opWrite (code : Byte) : Transaction := .hostWrite 0x000 code

/-- A frame row's bytes (R90). -/
def relayFrame (p : Params) (f : FunctionCode) (uc : Byte) (payload : List Byte) : Transaction :=
  .relay (commandFrame p (codeValue p f) uc payload)

/-- The transaction of an instruction, from the encoding tables R97, R99, R102 and the frame formats R90 to R96. -/
def encode (p : Params) : Instr → Transaction
  | .nop => opWrite 0x00
  | .init => opWrite 0x01
  | .build => opWrite 0x02
  | .payloadAcq => opWrite 0x03
  | .xmit => opWrite 0x04
  | .validate => opWrite 0x05
  | .restore => opWrite 0x06
  | .synthStandby => opWrite 0x07
  | .retClr => opWrite 0x08
  | .rdyClr => opWrite 0x09
  | .poll => opWrite 0x0A
  | .fwdDrain => opWrite 0x0B
  | .csClr => opWrite 0x0C
  | .reservedOp code => opWrite code
  | .fwdByte b => .hostWrite 0x00D b
  | .csAdd b => .hostWrite 0x017 b
  | .regRead off => .hostRead off
  | .regWrite off v => .hostWrite off v
  | .rxByte b => .rx b
  | .rdyEdge e => .readyEdge e
  | .frameHello uc => relayFrame p .hello uc []
  | .frameStandby uc => relayFrame p .standby uc []
  | .frameGetSensorId uc => relayFrame p .getSensorId uc []
  | .frameGetWavelength uc => relayFrame p .getWavelength uc []
  | .frameAcqSpectrum uc a => relayFrame p .acqSpectrum uc (acqBytes a)
  | .frameGetSpectrum uc payload => relayFrame p .getSpectrum uc payload
  | .frameAcqXyz uc a => relayFrame p .acqXyz uc (acqBytes a)
  | .frameGetXyz uc payload => relayFrame p .getXyz uc payload
  | .frameUnknown uc payload => relayFrame p .unknown uc payload

/-- The transaction that bits of an opcode-table row stand for (log 10). A row of format OP has 8 bits: the byte
written to `OP` (R97). A row of format REGW has 16 bits, the offset written to (R99), and the written byte follows it as
bits 23:16. A byte sequence of five bytes or more is a relayed frame, its first byte in bits 7:0 (R90). -/
def tableTransaction (nbits w : Nat) : Transaction :=
  if nbits ≤ 8 then .hostWrite 0x000 (BitVec.ofNat 8 w)
  else if nbits ≤ 32 then .hostWrite (BitVec.ofNat 16 w) (BitVec.ofNat 8 (w / 65536))
  else .relay ((List.range (nbits / 8)).map fun k => BitVec.ofNat 8 (w / 256 ^ k))

/-- What the decoder reads from the bits of an opcode-table row. -/
def decodeTableWord (nbits w : Nat) : Option Instr :=
  match decode Config.instanceParams.params (tableTransaction nbits w) with
  | .ok i => some i
  | .error _ => none

end Sys2Proof
end

