-- ==== Sys2Proof/Machine/State.lean ====
section
/-! DEFINITION. The state of one block instance (10_state.md R22, reset values R51), its events, and the reasons a step
can stop. -/

namespace Sys2Proof.Machine

/-- A byte buffer: (index, byte) pairs, indices strictly rising. An index that is not listed is a byte that no step has
written since power-on: it holds no value (R49). -/
abbrev Memory := List Host.Cell

/-- The one canonical form of a buffer: indices strictly rise. No entry can equal what an unlisted index reads as, since
that is no value. -/
abbrev Memory.wf (m : Memory) : Prop := m.Pairwise fun x y => x.1 < y.1

/-- The four buffers of R45 to R48. -/
inductive Buffer where
  | cmd
  | bak
  | fbuf
  | ret
  deriving DecidableEq, Repr

/-- The outcome tag of one `FWD_BYTE` step (R198). -/
inductive FwdOutcome where
  /-- Byte appended, frame in progress. -/
  | accept
  /-- Frame complete and valid. -/
  | complete
  /-- Discarded: a filled frame is not drained (R192). -/
  | dropBackpressure
  /-- Discarded: no frame start (R193). -/
  | dropIdle
  /-- Discarded: no capacity (R197, unreachable). -/
  | dropFull
  /-- The offset-1 byte is not `PREFIX1` (R194). -/
  | resetDesync
  /-- The offset-2 byte has no `FwdLen` (R195). -/
  | resetUnrecognized
  /-- The complete frame fails `Valid8` (R196). -/
  | resetChecksum
  deriving DecidableEq, Repr

/-- The error kinds of R241. -/
inductive ErrorKind where
  | none
  | checksumMismatch
  | headerMismatch
  | transportTimeout
  | frameDesync
  | unrecognizedFc
  | badLength
  | illegalOp
  deriving DecidableEq, Repr

/-- What the block gives out in a step: it goes to the event history (R148, R198) or to the host (R70). -/
inductive Event where
  /-- `emit TX(S)` (R148): the transmit event, first byte first. -/
  | tx (bytes : List Byte)
  /-- The outcome tag of an `FWD_BYTE` step (R198). -/
  | fwd (o : FwdOutcome)
  /-- The byte that `RegRead(off)` returned to the host (R70). -/
  | readData (off : Half) (v : Byte)
  deriving DecidableEq, Repr

/-- The state. The fields up to `ret` are R22's inventory; the last four are the model's own. -/
structure State where
  /-- `ARG_FC` (R23). -/
  argFc : Byte
  /-- `ARG_UC` (R24). -/
  argUc : Byte
  /-- `ARG_L` (R25). -/
  argL : Byte
  /-- `ARG_R` (R26). -/
  argR : Half
  /-- `ARG_FLAGS` (R27): bit 0 `WAIT`, bit 1 `SILENT`. -/
  argFlags : BitVec 2
  /-- `ARG_IT` (R28). -/
  argIt : Half
  /-- `ARG_AVG` (R29). -/
  argAvg : Byte
  /-- `ARG_AE` (R30). -/
  argAe : Byte
  /-- `ERR` (R32). -/
  err : Byte
  /-- `FCUR` (R33). -/
  fcur : Byte
  /-- `FFILLED` (R34). -/
  ffilled : Bool
  /-- `RDY_FLAG` (R35). -/
  rdyFlag : Bool
  /-- `OK` (R36). -/
  ok : Bool
  /-- `FETCH_DUE` (R37). -/
  fetchDue : Bool
  /-- `DRAINED` (R38). -/
  drained : Bool
  /-- `ASYNC_FC` (R39). -/
  asyncFc : Byte
  /-- `LAST_FC` (R40). -/
  lastFc : Byte
  /-- `LAST_UC` (R40). -/
  lastUc : Byte
  /-- `LAST_L` (R41). -/
  lastL : Byte
  /-- `RET_SIZE` (R42). -/
  retSize : Half
  /-- `RX_CNT` (R43). -/
  rxCnt : Half
  /-- `CS_ACC` (R44). -/
  csAcc : Byte
  /-- `CMD` (R45). -/
  cmd : Memory
  /-- `BAK` (R46): hidden, no register reads it. -/
  bak : Memory
  /-- `FBUF` (R47). -/
  fbuf : Memory
  /-- `RET` (R48). -/
  ret : Memory
  /-- The instance's parameters (00_scope.md R9), fixed at construction: no step writes them (log 1). -/
  cfg : LegalParams
  /-- The events so far, oldest first (R148, R198; log 3). -/
  history : List Event
  /-- How many free bytes have been drawn (R145; log 6). -/
  freeCtr : Nat
  /-- The agents' transactions still to come, the next one first (R8; log 2). -/
  pending : List Transaction
  deriving DecidableEq, Repr

/-- The parameters of the instance. -/
abbrev State.par (s : State) : Params := s.cfg.params

/-- Why the machine stops. -/
inductive Fault where
  /-- A byte that no step has written since power-on is read: by a host window read, or by an operation that uses it as
  a value (R49, 93_implementation_defined.md I1: treatment `fault`). Raised by `REG_READ`, `BUILD`, `XMIT`, `VALIDATE`,
  the framer and `FWD_DRAIN`. Safe: the hardware goes on with some value (log 5). -/
  | unwrittenByte (b : Buffer) (index : Nat)
  /-- `FWD_DRAIN` with `FFILLED = 1` and a function code that has no `FwdLen`. R199 says that no reachable state has
  one, so the spec gives no effect. Safe (log 8). -/
  | drainWithoutLength (fc : Byte)
  deriving DecidableEq, Repr

/-- Why there is no meaning. -/
inductive Refusal where
  /-- The instruction has no meaning in this model yet. No arm of `exec` answers it. Safe. -/
  | notModelled (mnemonic : String)
  /-- Bytes relayed as one command frame are no command frame of R90 and R96. Raised by `step`. Safe: the same bytes
  can be fed one by one, as `FWD_BYTE` transactions (log 16). -/
  | notAFrame (why : FrameReject)
  /-- A parameter set that breaks R10 (93_implementation_defined.md I8: treatment `refuse`). Raised by `powerOn`, never
  by a step: State holds a legal set (log 1). Safe. -/
  | illegalParameters
  deriving DecidableEq, Repr

/-- Power-on reset of an instance with the parameters `c` (R51, R270): every register at its reset value, every buffer
byte unwritten, no event. -/
def State.resetWith (c : LegalParams) : State where
  argFc := 0
  argUc := 0
  argL := 0
  argR := 0
  argFlags := 0
  argIt := 0
  argAvg := 0
  argAe := 0
  err := 0x00
  fcur := 0
  ffilled := false
  rdyFlag := false
  ok := false
  fetchDue := false
  drained := false
  asyncFc := c.params.fcUnknown
  lastFc := c.params.fcUnknown
  lastUc := 0
  lastL := 0
  retSize := 0
  rxCnt := 0
  csAcc := 0
  cmd := []
  bak := []
  fbuf := []
  ret := []
  cfg := c
  history := []
  freeCtr := 0
  pending := []

/-- The machine right after power-on reset. Its parameters are those of `Config.instanceParams`: a legal set of which
nothing else is known (R9, R10; log 1). -/
def State.reset : State := State.resetWith Config.instanceParams

/-- Power-on with a raw parameter set: "a model refuses a parameter set that breaks" R10. -/
def State.powerOn (p : Params) : Host.Outcome State Fault Refusal :=
  if h : p.legal = true then .next (State.resetWith { params := p, legal := h }) else .refused .illegalParameters

end Sys2Proof.Machine
end

