-- ==== Sys2Proof/Machine/Ops.lean ====
section
/-! DEFINITION. The named operations over buffers and state that the meanings share. -/

namespace Sys2Proof.Machine

/-- The byte at index `a` of a buffer, if some step has written it (R49). -/
def Memory.read : Memory → Nat → Option Byte
  | [], _ => none
  | (b, v) :: rest, a => if b = a then some v else Memory.read rest a

/-- `B[a] <- v`, in canonical form. -/
def Memory.write : Memory → Nat → Byte → Memory
  | [], a, v => [(a, v)]
  | (b, w) :: rest, a, v =>
    if a < b then (a, v) :: (b, w) :: rest
    else if a = b then (a, v) :: rest
    else (b, w) :: Memory.write rest a v

/-- `B[a..] <- S`, element-wise (R13). -/
def Memory.writes : Memory → Nat → List Byte → Memory
  | m, _, [] => m
  | m, a, v :: vs => Memory.writes (Memory.write m a v) (a + 1) vs

/-- The sequence `B[a..a+n-1]` (R13), or the first index in it that is unwritten. -/
def Memory.readRange (m : Memory) (a : Nat) : Nat → Except Nat (List Byte)
  | 0 => .ok []
  | n + 1 =>
    match Memory.read m a with
    | none => .error a
    | some v =>
      match Memory.readRange m (a + 1) n with
      | .error i => .error i
      | .ok vs => .ok (v :: vs)

/-- Go on with the byte at index `a` of buffer `b`, or fault when it is unwritten (R49). -/
def withByte (b : Buffer) (m : Memory) (a : Nat) (k : Byte → Host.Outcome State Fault Refusal) :
    Host.Outcome State Fault Refusal :=
  match Memory.read m a with
  | none => .fault (.unwrittenByte b a)
  | some v => k v

/-- Go on with the `n` bytes from index `a` of buffer `b`, or fault at the first unwritten one (R49). -/
def withBytes (b : Buffer) (m : Memory) (a n : Nat) (k : List Byte → Host.Outcome State Fault Refusal) :
    Host.Outcome State Fault Refusal :=
  match Memory.readRange m a n with
  | .error i => .fault (.unwrittenByte b i)
  | .ok vs => k vs

/-- Go on with what an outcome answers, or stop as it does. -/
def afterNext {α β : Type} (o : Host.Outcome α Fault Refusal) (k : α → Host.Outcome β Fault Refusal) :
    Host.Outcome β Fault Refusal :=
  match o with
  | .next a => k a
  | .fault r => .fault r
  | .refused r => .refused r

/-- `n` free bytes, the first the one numbered `start` (R14 `any u8`, R145; log 6). -/
def freeBytes (start n : Nat) : List Byte := (List.range n).map fun k => Config.anyByte (start + k)

/-- The numeric error codes of R241. -/
def errorCode : ErrorKind → Byte
  | .none => 0x00
  | .checksumMismatch => 0x01
  | .headerMismatch => 0x02
  | .transportTimeout => 0x03
  | .frameDesync => 0x04
  | .unrecognizedFc => 0x05
  | .badLength => 0x10
  | .illegalOp => 0x11

/-- `ERR <- e`: how an `OP` operation reports its verdict, as its last effect (R223, R240). -/
def State.report (s : State) (e : ErrorKind) : State := { s with err := errorCode e }

/-- Append one event to the history (R148, R198). -/
def State.emit (s : State) (e : Event) : State := { s with history := s.history ++ [e] }

/-- `fail(e)` of `VALIDATE`: `ERR <- e; OK <- 0; RET_SIZE <- 0` (R152). -/
def State.failExchange (s : State) (e : ErrorKind) : State :=
  { s with ok := false, retSize := 0 }.report e

/-- The schedule from now on (log 2). -/
def State.withPending (s : State) (ts : List Transaction) : State := { s with pending := ts }

end Sys2Proof.Machine
end

