-- ==== Sys2Proof/Machine/Flags.lean ====
section
/-! DEFINITION. The single-bit views: the fields of `ARG_FLAGS` (R27), the bits of `STATUS` (R31), and the error kind
of a framer outcome (R198). -/

namespace Sys2Proof.Machine

/-- `ARG_FLAGS.WAIT`, bit 0 (R27, R100). -/
def waitFlag (s : State) : Bool := s.argFlags.getLsbD 0

/-- `ARG_FLAGS.SILENT`, bit 1 (R27, R100). -/
def silentFlag (s : State) : Bool := s.argFlags.getLsbD 1

/-- `STATUS.CS_ZERO` (R31, R127). -/
def csZero (s : State) : Bool := s.csAcc == 0

/-- `STATUS.RET_AVAIL` (R31). -/
def retAvail (s : State) : Bool := s.retSize != 0

/-- `STATUS.ASYNC_PENDING` (R31). -/
def asyncPending (s : State) : Bool := s.asyncFc != s.par.fcUnknown

/-- The bits of `STATUS`, bit 0 first (R31). -/
def statusBits (s : State) : List Bool :=
  [s.ffilled, s.rdyFlag, s.ok, s.fetchDue, s.drained, csZero s, retAvail s, asyncPending s]

/-- The unsigned value of a list of bits, bit 0 first. -/
def bitsValue : List Bool → Nat
  | [] => 0
  | b :: bs => b.toNat + 2 * bitsValue bs

/-- `STATUS`: a view of single-bit state (R31). -/
def statusByte (s : State) : Byte := BitVec.ofNat 8 (bitsValue (statusBits s))

/-- Column "§7 error kind" of R198: the kind that a framer outcome stands for. It is never in `ERR` (R201, R241). -/
def fwdErrorKind : FwdOutcome → Option ErrorKind
  | .resetDesync => some .frameDesync
  | .resetUnrecognized => some .unrecognizedFc
  | .resetChecksum => some .checksumMismatch
  | .accept | .complete | .dropBackpressure | .dropIdle | .dropFull => none

end Sys2Proof.Machine
end

