-- ==== Sys2Proof/Machine/Operands.lean ====
section
/-! DEFINITION. The register interface: what an offset names (20_memory.md R62 to R66), what a register reads as (R70)
and what a plain write stores (R71). -/

namespace Sys2Proof.Machine

/-- The registers of R62, in the order of their offsets. -/
inductive Reg where
  | op
  | status
  | err
  | argFc
  | argUc
  | argL
  | argRLo
  | argRHi
  | argFlags
  | argItLo
  | argItHi
  | argAvg
  | argAe
  | fwdData
  | fwdCur
  | asyncFc
  | lastFc
  | lastUc
  | lastL
  | retSizeLo
  | retSizeHi
  | rxCntLo
  | rxCntHi
  | csData
  | csSum
  | csChk
  deriving DecidableEq, Repr

/-- What an offset of the register interface names. -/
inductive Location where
  /-- A register (R62). -/
  | reg (r : Reg)
  /-- `CMD[i]` (R63). -/
  | cmd (i : Nat)
  /-- `FBUF[i]` (R65). -/
  | fbuf (i : Nat)
  /-- `RET[i]` (R64). -/
  | ret (i : Nat)
  /-- Reserved (R66). -/
  | reserved
  deriving DecidableEq, Repr

/-- The offset of a register (R62). -/
def regOffset : Reg → Half
  | .op => 0x000
  | .status => 0x001
  | .err => 0x002
  | .argFc => 0x003
  | .argUc => 0x004
  | .argL => 0x005
  | .argRLo => 0x006
  | .argRHi => 0x007
  | .argFlags => 0x008
  | .argItLo => 0x009
  | .argItHi => 0x00A
  | .argAvg => 0x00B
  | .argAe => 0x00C
  | .fwdData => 0x00D
  | .fwdCur => 0x00E
  | .asyncFc => 0x00F
  | .lastFc => 0x010
  | .lastUc => 0x011
  | .lastL => 0x012
  | .retSizeLo => 0x013
  | .retSizeHi => 0x014
  | .rxCntLo => 0x015
  | .rxCntHi => 0x016
  | .csData => 0x017
  | .csSum => 0x018
  | .csChk => 0x019

/-- The register at an offset, if the offset is one of R62's. -/
def regAt : Nat → Option Reg
  | 0x000 => some .op
  | 0x001 => some .status
  | 0x002 => some .err
  | 0x003 => some .argFc
  | 0x004 => some .argUc
  | 0x005 => some .argL
  | 0x006 => some .argRLo
  | 0x007 => some .argRHi
  | 0x008 => some .argFlags
  | 0x009 => some .argItLo
  | 0x00A => some .argItHi
  | 0x00B => some .argAvg
  | 0x00C => some .argAe
  | 0x00D => some .fwdData
  | 0x00E => some .fwdCur
  | 0x00F => some .asyncFc
  | 0x010 => some .lastFc
  | 0x011 => some .lastUc
  | 0x012 => some .lastL
  | 0x013 => some .retSizeLo
  | 0x014 => some .retSizeHi
  | 0x015 => some .rxCntLo
  | 0x016 => some .rxCntHi
  | 0x017 => some .csData
  | 0x018 => some .csSum
  | 0x019 => some .csChk
  | _ => none

/-- What an offset names: R62 below 0x100, then the windows of R63 to R65; every other offset is reserved (R66). -/
def locate (p : Params) (off : Half) : Location :=
  if off.toNat < 0x100 then
    match regAt off.toNat with
    | some r => .reg r
    | none => .reserved
  else if off.toNat < 0x100 + p.cmdCap then .cmd (off.toNat - 0x100)
  else if 0x200 ≤ off.toNat ∧ off.toNat < 0x200 + p.cmdCap then .fbuf (off.toNat - 0x200)
  else if 0x400 ≤ off.toNat ∧ off.toNat < 0x400 + p.retCap then .ret (off.toNat - 0x400)
  else .reserved

/-- The current value of a register (R62, R70). A write-only register reads 0x00 (R66). -/
def regValue (s : State) : Reg → Byte
  | .op => 0x00
  | .status => statusByte s
  | .err => s.err
  | .argFc => s.argFc
  | .argUc => s.argUc
  | .argL => s.argL
  | .argRLo => loByte s.argR
  | .argRHi => hiByte s.argR
  | .argFlags => s.argFlags.setWidth 8
  | .argItLo => loByte s.argIt
  | .argItHi => hiByte s.argIt
  | .argAvg => s.argAvg
  | .argAe => s.argAe
  | .fwdData => 0x00
  | .fwdCur => s.fcur
  | .asyncFc => s.asyncFc
  | .lastFc => s.lastFc
  | .lastUc => s.lastUc
  | .lastL => s.lastL
  | .retSizeLo => loByte s.retSize
  | .retSizeHi => hiByte s.retSize
  | .rxCntLo => loByte s.rxCnt
  | .rxCntHi => hiByte s.rxCnt
  | .csData => 0x00
  | .csSum => s.csAcc
  | .csChk => negByte s.csAcc

/-- A plain write to a register (R71): an operand register stores the byte (`ARG_FLAGS` its bits 1:0), a read-only
register ignores it (R66). The three trigger registers start operations; that is `execRegWrite`'s part, not this one. -/
def storeReg (s : State) (v : Byte) : Reg → State
  | .argFc => { s with argFc := v }
  | .argUc => { s with argUc := v }
  | .argL => { s with argL := v }
  | .argRLo => { s with argR := pairBytes (hiByte s.argR) v }
  | .argRHi => { s with argR := pairBytes v (loByte s.argR) }
  | .argFlags => { s with argFlags := v.setWidth 2 }
  | .argItLo => { s with argIt := pairBytes (hiByte s.argIt) v }
  | .argItHi => { s with argIt := pairBytes v (loByte s.argIt) }
  | .argAvg => { s with argAvg := v }
  | .argAe => { s with argAe := v }
  | .op | .status | .err | .fwdData | .fwdCur | .asyncFc | .lastFc | .lastUc | .lastL | .retSizeLo | .retSizeHi
  | .rxCntLo | .rxCntHi | .csData | .csSum | .csChk => s

/-- The byte that a host read of a location returns, or the fault of an unwritten window byte (R49, R66, R70). -/
def readLocation (s : State) : Location → Except Fault Byte
  | .reg r => .ok (regValue s r)
  | .cmd i => match Memory.read s.cmd i with
    | some v => .ok v
    | none => .error (.unwrittenByte .cmd i)
  | .fbuf i => match Memory.read s.fbuf i with
    | some v => .ok v
    | none => .error (.unwrittenByte .fbuf i)
  | .ret i => match Memory.read s.ret i with
    | some v => .ok v
    | none => .error (.unwrittenByte .ret i)
  | .reserved => .ok 0x00

/-- The transitions of the ready line that are a ready edge, for a polarity (R242, R9; log 9). -/
def activeEdge : EdgePolarity → LineEdge → Bool
  | .rising, .rising => true
  | .rising, .falling => false
  | .falling, .rising => false
  | .falling, .falling => true
  | .both, .rising => true
  | .both, .falling => true

/-- The host's address of an offset (R60, R67). -/
def hostAddress (p : Params) (off : Half) : Nat := p.blockBase + off.toNat

/-- The offset that a host address reaches, if it lies in the block's window (R60; log 19). -/
def offsetOfAddress (p : Params) (addr : Nat) : Option Half :=
  if p.blockBase ≤ addr ∧ addr < p.blockBase + 0x10000 then some (BitVec.ofNat 16 (addr - p.blockBase)) else none

end Sys2Proof.Machine
end

