-- ==== Sys2Proof/Machine/Builder.lean ====
section
/-! DEFINITION. The command packet builder (41_packet_builder.md). -/

namespace Sys2Proof.Machine

/-- `CMD` with the header of `BUILD` inserted (R141 step 1). -/
def headedCmd (s : State) : Memory := Memory.writes s.cmd 0 (frameHeader s.par s.argFc s.argUc)

/-- The built buffer becomes `CMD` and its backup `BAK`, and the command is tracked (R141 steps 2 and 3). -/
def trackCommand (s : State) (built : Memory) : State :=
  { s with
    cmd := built
    asyncFc := if waitFlag s then s.argFc else s.par.fcUnknown
    rdyFlag := false
    lastFc := s.argFc
    lastUc := s.argUc
    lastL := s.argL
    bak := built }

/-- `BUILD` (R141, length check R140): header, checksum at `L-1`, async tracking, ready-flag clear, capture, backup. The
payload bytes are read as they stand; the backup copies the whole buffer with each byte's written status (R49). -/
def execBuild (s : State) : Host.Outcome State Fault Refusal :=
  if s.argL.toNat < 5 ∨ s.par.cmdCap < s.argL.toNat then .next (s.report .badLength)
  else
    withBytes .cmd (headedCmd s) 0 (s.argL.toNat - 1) fun body =>
      .next ((trackCommand s (Memory.write (headedCmd s) (s.argL.toNat - 1) (checksum8 body))).report .none)

/-- The payload that `PAYLOAD_ACQ` writes: the operand registers and the reserved byte 0x00 (R92, R143). -/
def acqOperands (s : State) : AcqPayload := { it := s.argIt, avg := s.argAvg, ae := s.argAe, reserved := 0x00 }

/-- `PAYLOAD_ACQ` (R143). -/
def execPayloadAcq (s : State) : Host.Outcome State Fault Refusal :=
  .next ({ s with cmd := Memory.writes s.cmd 4 (acqBytes (acqOperands s)) }.report .none)

/-- `XMIT` (R144, R145, R148): flush, withdraw the packet, emit the command as it stands; afterwards the sent bytes of
`CMD` are free values (log 6). -/
def execXmit (s : State) : Host.Outcome State Fault Refusal :=
  if s.lastL = 0 then .next (s.report .badLength)
  else
    withBytes .cmd s.cmd 0 s.lastL.toNat fun frame =>
      .next (({ s with
        rxCnt := 0
        retSize := 0
        ok := false
        cmd := Memory.writes s.cmd 0 (freeBytes s.freeCtr s.lastL.toNat)
        freeCtr := s.freeCtr + s.lastL.toNat }.emit (.tx frame)).report .none)

/-- `VALIDATE` (R152), its checks in the order of R153. The `R` received bytes are read once, before the byte checks
(log 7). -/
def execValidate (s : State) : Host.Outcome State Fault Refusal :=
  if s.argR.toNat < 5 ∨ s.par.retCap < s.argR.toNat then .next (s.failExchange .badLength)
  else if s.rxCnt.toNat < s.argR.toNat then .next (s.failExchange .transportTimeout)
  else
    withBytes .ret s.ret 0 s.argR.toNat fun frame =>
      if frame.take 4 ≠ frameHeader s.par s.lastFc s.lastUc then .next (s.failExchange .headerMismatch)
      else if sum8 frame ≠ 0 then .next (s.failExchange .checksumMismatch)
      else .next ({ s with retSize := if silentFlag s then 0 else s.argR, ok := true }.report .none)

/-- `RESTORE` (R155): the whole buffer, each byte with its written status. -/
def execRestore (s : State) : Host.Outcome State Fault Refusal := .next ({ s with cmd := s.bak }.report .none)

/-- The synthesised Standby success frame (R156): header, zero payload, checksum; `R_STANDBY` bytes. -/
def standbyFrame (p : Params) (uc : Byte) : List Byte :=
  commandFrame p p.fcStandby uc (List.replicate (p.rStandby - 5) 0x00)

/-- `SYNTH_STANDBY` (R156). -/
def execSynthStandby (s : State) : Host.Outcome State Fault Refusal :=
  .next ({ s with
    ret := Memory.writes s.ret 0 (standbyFrame s.par s.argUc)
    retSize := BitVec.ofNat 16 s.par.rStandby
    ok := true }.report .none)

/-- `RET_CLR` (R157). -/
def execRetClr (s : State) : Host.Outcome State Fault Refusal := .next ({ s with retSize := 0 }.report .none)

/-- `RDY_CLR` (R158). -/
def execRdyClr (s : State) : Host.Outcome State Fault Refusal := .next ({ s with rdyFlag := false }.report .none)

/-- The fetch that `POLL` finds due: the ready trigger has fired and the outstanding code has a fetch mapping (R159). -/
def dueFetch (s : State) : Option Byte := if s.rdyFlag then fetchCode s.par s.asyncFc else none

/-- The verdict of `POLL` in `FETCH_DUE`, and the fetch command's operands when one is due (R159). -/
def loadFetch (s : State) : Option Byte → State
  | some fc => { s with argFc := fc, argUc := s.lastUc, argFlags := 0, fetchDue := true }
  | none => { s with fetchDue := false }

/-- `POLL` (R159). -/
def execPoll (s : State) : Host.Outcome State Fault Refusal := .next ((loadFetch s (dueFetch s)).report .none)

end Sys2Proof.Machine
end

