-- ==== Sys2Proof/Machine/ChecksumUnit.lean ====
section
/-! DEFINITION. The checksum unit's accumulator (40_checksum.md section 2). -/

namespace Sys2Proof.Machine

/-- `CS_CLR` (R125). -/
def execCsClr (s : State) : Host.Outcome State Fault Refusal := .next ({ s with csAcc := 0 }.report .none)

/-- `CS_ADD(b)` (R126): the carry out of bit 7 is discarded, `ERR` is not written. -/
def execCsAdd (b : Byte) (s : State) : Host.Outcome State Fault Refusal := .next { s with csAcc := s.csAcc + b }

end Sys2Proof.Machine
end

