-- ==== Sys2Proof/Machine/Control.lean ====
section
/-! DEFINITION. The control operations (43_control.md). -/

namespace Sys2Proof.Machine

/-- `NOP` (R220). -/
def execNop (s : State) : Host.Outcome State Fault Refusal := .next (s.report .none)

/-- Every state item of R22 but the four buffers at its reset value of R51, `ERR` among them; the buffers keep their
bytes (R221). The model's own fields are no items of R22 and stay (log 11). -/
def initialised (s : State) : State :=
  { s with
    argFc := 0
    argUc := 0
    argL := 0
    argR := 0
    argFlags := 0
    argIt := 0
    argAvg := 0
    argAe := 0
    err := 0x00
    fcur := 0
    ffilled := false
    rdyFlag := false
    ok := false
    fetchDue := false
    drained := false
    asyncFc := s.par.fcUnknown
    lastFc := s.par.fcUnknown
    lastUc := 0
    lastL := 0
    retSize := 0
    rxCnt := 0
    csAcc := 0 }

/-- `INIT` (R221). -/
def execInit (s : State) : Host.Outcome State Fault Refusal := .next (initialised s)

/-- A reserved op code (R98, R222): `ERR <- 0x11`, nothing else. -/
def execReservedOp (_code : Byte) (s : State) : Host.Outcome State Fault Refusal := .next (s.report .illegalOp)

end Sys2Proof.Machine
end

