-- ==== Sys2Proof/Machine/Framer.lean ====
section
/-! DEFINITION. The forward framer (42_forward_framer.md). -/

namespace Sys2Proof.Machine

/-- The framer drops what it has of a frame: `FCUR <- 0`, with the outcome tag that says why (R194 to R196). -/
def resetFramer (s : State) (o : FwdOutcome) : State := { s with fcur := 0 }.emit (.fwd o)

/-- A complete, valid frame is held: `FCUR <- 0`, `FFILLED <- 1` (R196). -/
def fillFramer (s : State) : State := { s with fcur := 0, ffilled := true }.emit (.fwd .complete)

/-- A byte with no frame in progress (`FCUR = 0`): kept only if it is the frame start (R193). -/
def idleByte (b : Byte) (s : State) : State :=
  if b ≠ s.par.prefix0 then s.emit (.fwd .dropIdle)
  else { s with fbuf := Memory.write s.fbuf 0 b, fcur := 1 }.emit (.fwd .accept)

/-- A frame's last byte is in: `FCUR <- 0`, and the checksum decides (R196). `s` holds the frame's `n` bytes. -/
def completeFrame (s : State) (n : Nat) : Host.Outcome State Fault Refusal :=
  withBytes .fbuf s.fbuf 0 n fun frame =>
    if sum8 frame = 0 then .next (fillFramer s)
    else .next (resetFramer s .resetChecksum)

/-- `FBUF[FCUR] <- b; FCUR <- FCUR + 1` (R191). -/
def appendByte (b : Byte) (s : State) : State :=
  { s with fbuf := Memory.write s.fbuf s.fcur.toNat b, fcur := s.fcur + 1 }

/-- The checks after a byte has been appended to a frame in progress, in the order of R191: the prefix at offset 1, the
function code at offset 2 once three bytes are in, the length. -/
def checkFrame (s : State) : Host.Outcome State Fault Refusal :=
  withByte .fbuf s.fbuf 1 fun second =>
    if second ≠ s.par.prefix1 then .next (resetFramer s .resetDesync)
    else if s.fcur.toNat < 3 then .next (s.emit (.fwd .accept))
    else
      withByte .fbuf s.fbuf 2 fun fc =>
        match fwdLen s.par fc with
        | none => .next (resetFramer s .resetUnrecognized)
        | some n => if s.fcur.toNat = n then completeFrame s n else .next (s.emit (.fwd .accept))

/-- A byte with a frame in progress (`1 <= FCUR < CMD_CAP`): append it, then check (R191). -/
def framedByte (b : Byte) (s : State) : Host.Outcome State Fault Refusal := checkFrame (appendByte b s)

/-- One externally supplied byte (R191): back-pressure (R192), idle (R193), capacity (R197), then `framedByte`. With
`FCUR = 0` the capacity check of R191 cannot fail, since `CMD_CAP >= 10` (R10(b)). -/
def framerByte (b : Byte) (s : State) : Host.Outcome State Fault Refusal :=
  if s.ffilled then .next (s.emit (.fwd .dropBackpressure))
  else if s.fcur = 0 then .next (idleByte b s)
  else if s.par.cmdCap ≤ s.fcur.toNat then .next (s.emit (.fwd .dropFull))
  else framedByte b s

/-- `FWD_BYTE(b)` (R191). -/
def execFwdByte (b : Byte) (s : State) : Host.Outcome State Fault Refusal := framerByte b s

/-- Bytes fed one after the other (R103(c) `feed`): a run of `FWD_BYTE` steps with no other agent's step between. -/
def feedBytes : List Byte → State → Host.Outcome State Fault Refusal
  | [], s => .next s
  | b :: bs, s =>
    match framerByte b s with
    | .next t => feedBytes bs t
    | .fault r => .fault r
    | .refused r => .refused r

/-- `FWD_DRAIN` (R200). -/
def execFwdDrain (s : State) : Host.Outcome State Fault Refusal :=
  if s.ffilled then
    withByte .fbuf s.fbuf 2 fun fc =>
      match fwdLen s.par fc with
      | none => .fault (.drainWithoutLength fc)
      | some n =>
        withBytes .fbuf s.fbuf 0 n fun frame =>
          withByte .fbuf s.fbuf 3 fun uc =>
            .next ({ s with
              cmd := Memory.writes s.cmd 0 frame
              ffilled := false
              argFc := fc
              argUc := uc
              argL := BitVec.ofNat 8 n
              drained := true }.report .none)
  else .next ({ s with drained := false }.report .none)

end Sys2Proof.Machine
end

