-- ==== Sys2Proof/Machine/Bus.lean ====
section
/-! DEFINITION. One host access of the register interface (20_memory.md R70, R71). -/

namespace Sys2Proof.Machine

/-- `RegRead(off)` (R70): the byte goes to the host, no item of state changes. -/
def execRegRead (off : Half) (s : State) : Host.Outcome State Fault Refusal :=
  match readLocation s (locate s.par off) with
  | .ok v => .next (s.emit (.readData off v))
  | .error r => .fault r

/-- A write of `v` to `OP` starts the operation of R97 with op code `v`. -/
def startOp (v : Byte) (s : State) : Host.Outcome State Fault Refusal :=
  match v.toNat with
  | 0x00 => execNop s
  | 0x01 => execInit s
  | 0x02 => execBuild s
  | 0x03 => execPayloadAcq s
  | 0x04 => execXmit s
  | 0x05 => execValidate s
  | 0x06 => execRestore s
  | 0x07 => execSynthStandby s
  | 0x08 => execRetClr s
  | 0x09 => execRdyClr s
  | 0x0A => execPoll s
  | 0x0B => execFwdDrain s
  | 0x0C => execCsClr s
  | _ => execReservedOp v s

/-- `RegWrite(off, v)` (R71), for every offset: a trigger register starts its operation, an operand register stores the
byte, the command window takes it, all else ignores it (log 17). -/
def execRegWrite (off : Half) (v : Byte) (s : State) : Host.Outcome State Fault Refusal :=
  match locate s.par off with
  | .reg .op => startOp v s
  | .reg .fwdData => execFwdByte v s
  | .reg .csData => execCsAdd v s
  | .reg r => .next (storeReg s v r)
  | .cmd i => .next { s with cmd := Memory.write s.cmd i v }
  | .fbuf _ | .ret _ | .reserved => .next s

end Sys2Proof.Machine
end

