-- ==== Sys2Proof/Machine/Ports.lean ====
section
/-! DEFINITION. The steps of the transport and of the ready-trigger source. -/

namespace Sys2Proof.Machine

/-- `RX_BYTE(b)` (41_packet_builder.md R151): past `RET_CAP` the byte is dropped. -/
def execRxByte (b : Byte) (s : State) : Host.Outcome State Fault Refusal :=
  if s.rxCnt.toNat < s.par.retCap then
    .next { s with ret := Memory.write s.ret s.rxCnt.toNat b, rxCnt := s.rxCnt + 1 }
  else .next s

/-- `RDY_EDGE` (60_exceptions.md R242): an edge of the polarity `RDY_EDGE` sets the flag; the other one is no ready edge
(log 9). -/
def execRdyEdge (e : LineEdge) (s : State) : Host.Outcome State Fault Refusal :=
  .next (if activeEdge s.par.rdyEdge e then { s with rdyFlag := true } else s)

end Sys2Proof.Machine
end

