-- ==== Sys2Proof/Machine/Relay.lean ====
section
/-! DEFINITION. The command frames of 30_encoding.md R96, relayed to the forward framer: the bytes of the frame, fed
one after the other (R103(c), R191; log 4). What becomes of a frame is the framer's `FwdLen` column: the six dispatch
commands are recognised, GetSpectrum, GetXYZ and Unknown are not (R190). -/

namespace Sys2Proof.Machine

/-- Feed the frame of a function code (R90, R96). -/
def relayCommand (f : FunctionCode) (uc : Byte) (payload : List Byte) (s : State) : Host.Outcome State Fault Refusal :=
  feedBytes (commandFrame s.par (codeValue s.par f) uc payload) s

/-- `FRAME_HELLO` (R91, R96). -/
def execFrameHello (uc : Byte) (s : State) : Host.Outcome State Fault Refusal := relayCommand .hello uc [] s

/-- `FRAME_STANDBY` (R91, R96). -/
def execFrameStandby (uc : Byte) (s : State) : Host.Outcome State Fault Refusal := relayCommand .standby uc [] s

/-- `FRAME_GETSENSORID` (R91, R96). -/
def execFrameGetSensorId (uc : Byte) (s : State) : Host.Outcome State Fault Refusal :=
  relayCommand .getSensorId uc [] s

/-- `FRAME_GETWAVELENGTH` (R91, R96). -/
def execFrameGetWavelength (uc : Byte) (s : State) : Host.Outcome State Fault Refusal :=
  relayCommand .getWavelength uc [] s

/-- `FRAME_ACQSPECTRUM` (R92, R96). -/
def execFrameAcqSpectrum (uc : Byte) (acq : AcqPayload) (s : State) : Host.Outcome State Fault Refusal :=
  relayCommand .acqSpectrum uc (acqBytes acq) s

/-- `FRAME_GETSPECTRUM` (R95, R96): not recognised by the framer. -/
def execFrameGetSpectrum (uc : Byte) (payload : List Byte) (s : State) : Host.Outcome State Fault Refusal :=
  relayCommand .getSpectrum uc payload s

/-- `FRAME_ACQXYZ` (R92, R96). -/
def execFrameAcqXyz (uc : Byte) (acq : AcqPayload) (s : State) : Host.Outcome State Fault Refusal :=
  relayCommand .acqXyz uc (acqBytes acq) s

/-- `FRAME_GETXYZ` (R95, R96): not recognised by the framer. -/
def execFrameGetXyz (uc : Byte) (payload : List Byte) (s : State) : Host.Outcome State Fault Refusal :=
  relayCommand .getXyz uc payload s

/-- `FRAME_UNKNOWN` (R96): the sentinel, not recognised by the framer. -/
def execFrameUnknown (uc : Byte) (payload : List Byte) (s : State) : Host.Outcome State Fault Refusal :=
  relayCommand .unknown uc payload s

end Sys2Proof.Machine
end

