-- ==== Sys2Proof/Machine/Dispatch.lean ====
section
/-! DEFINITION. One arm for each row of spec/opcode_table.json. -/

namespace Sys2Proof.Machine

def exec (i : Instr) (s : State) : Host.Outcome State Fault Refusal :=
  match i with
  | .nop => Sys2Proof.Machine.execNop s
  | .init => Sys2Proof.Machine.execInit s
  | .build => Sys2Proof.Machine.execBuild s
  | .payloadAcq => Sys2Proof.Machine.execPayloadAcq s
  | .xmit => Sys2Proof.Machine.execXmit s
  | .validate => Sys2Proof.Machine.execValidate s
  | .restore => Sys2Proof.Machine.execRestore s
  | .synthStandby => Sys2Proof.Machine.execSynthStandby s
  | .retClr => Sys2Proof.Machine.execRetClr s
  | .rdyClr => Sys2Proof.Machine.execRdyClr s
  | .poll => Sys2Proof.Machine.execPoll s
  | .fwdDrain => Sys2Proof.Machine.execFwdDrain s
  | .csClr => Sys2Proof.Machine.execCsClr s
  | .reservedOp code => Sys2Proof.Machine.execReservedOp code s
  | .fwdByte b => Sys2Proof.Machine.execFwdByte b s
  | .csAdd b => Sys2Proof.Machine.execCsAdd b s
  | .regRead off => Sys2Proof.Machine.execRegRead off s
  | .regWrite off v => Sys2Proof.Machine.execRegWrite off v s
  | .rxByte b => Sys2Proof.Machine.execRxByte b s
  | .rdyEdge e => Sys2Proof.Machine.execRdyEdge e s
  | .frameHello uc => Sys2Proof.Machine.execFrameHello uc s
  | .frameStandby uc => Sys2Proof.Machine.execFrameStandby uc s
  | .frameGetSensorId uc => Sys2Proof.Machine.execFrameGetSensorId uc s
  | .frameGetWavelength uc => Sys2Proof.Machine.execFrameGetWavelength uc s
  | .frameAcqSpectrum uc acq => Sys2Proof.Machine.execFrameAcqSpectrum uc acq s
  | .frameGetSpectrum uc payload => Sys2Proof.Machine.execFrameGetSpectrum uc payload s
  | .frameAcqXyz uc acq => Sys2Proof.Machine.execFrameAcqXyz uc acq s
  | .frameGetXyz uc payload => Sys2Proof.Machine.execFrameGetXyz uc payload s
  | .frameUnknown uc payload => Sys2Proof.Machine.execFrameUnknown uc payload s

end Sys2Proof.Machine
end

