-- ==== Sys2Proof/Machine/Step.lean ====
section
/-! DEFINITION. One step of the block: the next transaction of the agents, decoded and run. -/

namespace Sys2Proof.Machine

/-- One atomic step (00_scope.md R7, R8; 20_memory.md R75). The next pending transaction is taken from the schedule,
decoded and run. With none pending no agent moves, and the block starts nothing by itself (R270): the state stays. -/
def step (s : State) : Host.Outcome State Fault Refusal :=
  match s.pending with
  | [] => .next s
  | t :: rest =>
    match decode s.par t with
    | .ok i => exec i (s.withPending rest)
    | .error why => .refused (.notAFrame why)

/-- `s` with the instruction that the bits of an opcode-table row stand for put first in the schedule (log 2, log 10). -/
def State.withFetchWord (s : State) (nbits w : Nat) : State :=
  s.withPending (tableTransaction nbits w :: s.pending)

end Sys2Proof.Machine
end

