-- ==== Sys2Proof/Machine/HostSyntax.lean ====
section
/-! DEFINITION. Host program lines and their expansions (30_encoding.md R102, R103), and runs of several instructions.
The block executes none of this: it says which transactions a host's line stands for, and what a host that runs `send`
(R103(f), 41_packet_builder.md R162) does with the verdicts it reads. -/

namespace Sys2Proof.Machine

/-- `wr NAME, v` (R102). -/
def wr (r : Reg) (v : Byte) : Transaction := .hostWrite (regOffset r) v

/-- `rd NAME` (R102). -/
def rd (r : Reg) : Transaction := .hostRead (regOffset r)

/-- `cmd[i] v` (R102). -/
def cmdLine (i : Nat) (v : Byte) : Transaction := .hostWrite (BitVec.ofNat 16 (0x100 + i)) v

/-- `edge` (R102): a transition of the polarity that the instance takes as a ready edge. -/
def edgeLine (p : Params) : Transaction :=
  match p.rdyEdge with
  | .rising | .both => .readyEdge .rising
  | .falling => .readyEdge .falling

/-- `args fc, uc, L, R, flags` (R103(a)). -/
def argsLines (fc uc len : Byte) (r : Half) (flags : Byte) : List Transaction :=
  [wr .argFc fc, wr .argUc uc, wr .argL len, wr .argRLo (loByte r), wr .argRHi (hiByte r), wr .argFlags flags]

/-- `acqargs it, avg, ae` (R103(b)). -/
def acqArgsLines (it : Half) (avg ae : Byte) : List Transaction :=
  [wr .argItLo (loByte it), wr .argItHi (hiByte it), wr .argAvg avg, wr .argAe ae]

/-- `feed b0, ..., bk` (R103(c)). -/
def feedLines (bs : List Byte) : List Transaction := bs.map (wr .fwdData)

/-- `exchange` (R103(d)): `XMIT`, the other agents' steps while the host waits, `VALIDATE`. -/
def exchangeLines (during : List Transaction) : List Transaction := opWrite 0x04 :: during ++ [opWrite 0x05]

/-- `retry` (R103(e)). -/
def retryLines (during : List Transaction) : List Transaction := opWrite 0x06 :: exchangeLines during

/-- Whether a host that follows R103(d) and R276 may start `VALIDATE` now: on both channels when `R` bytes have arrived,
on UART also when the timeout of R248 has elapsed, which only the host can tell. -/
def mayValidate (timedOut : Bool) (s : State) : Bool :=
  decide (s.argR.toNat ≤ s.rxCnt.toNat) || (s.par.channel == .uart && timedOut)

/-! `send`: a host procedure, so a function of what the other agents do meanwhile. Two texts give it, the pseudo-instruction
of R103(f) and the send cycle of 41_packet_builder.md R162, and they differ (log 20): both are here. -/

/-- One host line after the other: each transaction decoded and run, stopping at the first fault or refusal. -/
def runLines : List Transaction → State → Host.Outcome State Fault Refusal
  | [], s => .next s
  | t :: ts, s =>
    match decode s.par t with
    | .ok i => afterNext (exec i s) (runLines ts)
    | .error why => .refused (.notAFrame why)

/-- The two texts of `send`. -/
inductive SendForm where
  /-- The pseudo-instruction `send` (R103(f)). -/
  | sendLine
  /-- The procedure `send(fc, uc, L, R, wait, silent, retry)` of R162. -/
  | sendCycle
  deriving DecidableEq, Repr

/-- What happens around one attempt of a `send` but the host's own lines. The retry interval lies in `lead` by R103(f) and in
`restored` by R162. A step has no duration and the other agents never stop, so they may move in either, in both forms. -/
structure Attempt where
  /-- The steps before the host's first line of the attempt: after `BUILD`, or between the verdict and `RESTORE`. -/
  lead : List Transaction
  /-- The steps right before `XMIT`: for a retry, those after `RESTORE`. -/
  restored : List Transaction
  /-- The steps while the host waits for the answer (R103(d)). -/
  during : List Transaction
  /-- The UART timeout has elapsed at the end of that wait (R248), which only the host can tell. -/
  timedOut : Bool
  deriving DecidableEq, Repr

/-- Where a host stands in `send`. -/
inductive SendVerdict where
  /-- `ERR = 0x00` after `VALIDATE`: `send` has returned success. -/
  | success
  /-- `send` has returned failure. -/
  | failure
  /-- `VALIDATE` may not be started yet (R103(d)). -/
  | waiting
  /-- The verdict asks for one more attempt. -/
  | retrying
  deriving DecidableEq, Repr

/-- The verdicts of `VALIDATE` that a host with retry enabled retries: R103(f) names three, R162 takes every one but 0x00
(log 20). -/
def SendForm.retries : SendForm → Byte → Bool
  | .sendLine, err =>
    err == errorCode .transportTimeout || err == errorCode .headerMismatch || err == errorCode .checksumMismatch
  | .sendCycle, err => err != errorCode .none

/-- What the host does with the verdict that `ERR` holds after `VALIDATE` (R103(f), R162). -/
def SendForm.verdict (form : SendForm) (retry : Bool) (err : Byte) : SendVerdict :=
  if err = errorCode .none then .success
  else if retry && form.retries err then .retrying
  else .failure

/-- The end of `exchange`: `VALIDATE` once the host may start it, and the verdict (R103(d)). -/
def finishExchange (form : SendForm) (retry timedOut : Bool) (s : State) :
    Host.Outcome (SendVerdict × State) Fault Refusal :=
  if mayValidate timedOut s then
    afterNext (runLines [opWrite 0x05] s) fun t => .next (form.verdict retry t.err, t)
  else .next (.waiting, s)

/-- `exchange` with its wait (R103(d)): the lines of `exchangeLines`, the last one only once the host may start it. -/
def runExchange (form : SendForm) (retry : Bool) (a : Attempt) (s : State) :
    Host.Outcome (SendVerdict × State) Fault Refusal :=
  afterNext (runLines (opWrite 0x04 :: a.during) s) (finishExchange form retry a.timedOut)

/-- The loop: while the verdict asks for it, `RESTORE`, `exchange`, with the interval on one side of `RESTORE`. The list
holds the attempts as far as they are known. Nothing bounds its length (R162, R252). -/
def sendRetries (form : SendForm) (retry : Bool) :
    List Attempt → SendVerdict × State → Host.Outcome (SendVerdict × State) Fault Refusal
  | [], (v, s) => .next (v, s)
  | a :: more, (.retrying, s) =>
    afterNext (runLines (a.lead ++ opWrite 0x06 :: a.restored) s) fun t =>
      afterNext (runExchange form retry a t) (sendRetries form retry more)
  | _ :: _, (.success, s) => .next (.success, s)
  | _ :: _, (.failure, s) => .next (.failure, s)
  | _ :: _, (.waiting, s) => .next (.waiting, s)

/-- `op BUILD`, failure if `ERR` is not 0x00, else `exchange` and the retries: `send` from `BUILD` on (R103(f), R162). -/
def runSend (form : SendForm) (retry : Bool) (first : Attempt) (more : List Attempt) (s : State) :
    Host.Outcome (SendVerdict × State) Fault Refusal :=
  afterNext (runLines [opWrite 0x02] s) fun built =>
    if built.err = errorCode .none then
      afterNext (runLines (first.lead ++ first.restored) built) fun t =>
        afterNext (runExchange form retry first t) (sendRetries form retry more)
    else .next (.failure, built)

/-- The pseudo-instruction `send` (R103(f)). -/
def sendLine (retry : Bool) (first : Attempt) (more : List Attempt) (s : State) :
    Host.Outcome (SendVerdict × State) Fault Refusal :=
  runSend .sendLine retry first more s

/-- `{SILENT = silent, WAIT = wait}` of R162, as the byte written to `ARG_FLAGS` (R27). -/
def flagsByte (wait silent : Bool) : Byte := BitVec.ofNat 8 (bitsValue [wait, silent])

/-- The procedure `send(fc, uc, L, R, wait, silent, retry)` of R162: the operands, then the send cycle. -/
def sendCommand (fc uc len : Byte) (r : Half) (wait silent retry : Bool) (first : Attempt) (more : List Attempt)
    (s : State) : Host.Outcome (SendVerdict × State) Fault Refusal :=
  afterNext (runLines (argsLines fc uc len r (flagsByte wait silent)) s) (runSend .sendCycle retry first more)

/-- `MemRead(addr, 1)` of R14: the read of the offset that the address reaches. -/
def memRead (p : Params) (addr : Nat) : Option Transaction := (offsetOfAddress p addr).map .hostRead

/-- `MemWrite(addr, 1, v)` of R14. -/
def memWrite (p : Params) (addr : Nat) (v : Byte) : Option Transaction :=
  (offsetOfAddress p addr).map fun off => .hostWrite off v

/-- Several instructions one after the other, stopping at the first fault or refusal. -/
def execAll : List Instr → State → Host.Outcome State Fault Refusal
  | [], s => .next s
  | i :: is, s =>
    match exec i s with
    | .next t => execAll is t
    | .fault r => .fault r
    | .refused r => .refused r

end Sys2Proof.Machine
end

