-- ==== Sys2Proof/Safety.lean ====
section
/-! DEFINITION. What holds in every reachable state (10_state.md R50, 42_forward_framer.md R199), when an instruction
reads only written bytes (R49), and the words the statements use. -/

namespace Sys2Proof.Safety

open Sys2Proof.Machine

/-- Index `i` of a buffer holds a byte that some step has written (R49). -/
abbrev written (m : Memory) (i : Nat) : Prop := (Memory.read m i).isSome = true

/-- A buffer is in its canonical form and lists no index at or past its capacity. -/
abbrev bounded (m : Memory) (cap : Nat) : Prop := Memory.wf m ∧ ∀ c ∈ m, c.1 < cap

/-- The four buffers keep their form within the capacities of R45 to R48. -/
structure BufferInv (s : State) : Prop where
  cmd : bounded s.cmd s.par.cmdCap
  bak : bounded s.bak s.par.cmdCap
  fbuf : bounded s.fbuf s.par.cmdCap
  ret : bounded s.ret s.par.retCap

/-- The framer's invariants (R50(a), (b), R199), and that the bytes of a frame in progress are written. -/
structure FramerInv (s : State) : Prop where
  cursor : s.fcur.toNat ≤ 9
  progress : ∀ i, i < s.fcur.toNat → written s.fbuf i
  start : 1 ≤ s.fcur.toNat → Memory.read s.fbuf 0 = some s.par.prefix0
  second : 2 ≤ s.fcur.toNat → Memory.read s.fbuf 1 = some s.par.prefix1
  code : 3 ≤ s.fcur.toNat →
    ∃ fc n, Memory.read s.fbuf 2 = some fc ∧ fwdLen s.par fc = some n ∧ s.fcur.toNat < n
  filled : s.ffilled = true → s.fcur = 0 ∧
    ∃ uc fc n rest, Memory.readRange s.fbuf 0 n = .ok (frameHeader s.par fc uc ++ rest) ∧
      fwdLen s.par fc = some n ∧ sum8 (frameHeader s.par fc uc ++ rest) = 0

/-- The builder's and the validator's invariants (R50(c) to (g)); the bytes received since the last `XMIT`, and the
bytes of the command last built with those of its backup, are written; `ERR` holds a code of R241 that `ERR` can
hold. -/
structure ExchangeInv (s : State) : Prop where
  async : s.asyncFc ≠ s.par.fcUnknown → s.asyncFc = s.lastFc
  received : s.rxCnt.toNat ≤ s.par.retCap
  receivedWritten : ∀ i, i < s.rxCnt.toNat → written s.ret i
  packet : s.retSize = 0 ∨ (5 ≤ s.retSize.toNat ∧ s.retSize.toNat ≤ s.par.retCap)
  packetOk : s.retSize ≠ 0 → s.ok = true
  command : s.lastL = 0 ∨ (5 ≤ s.lastL.toNat ∧ s.lastL.toNat ≤ s.par.cmdCap)
  commandWritten : ∀ i, i < s.lastL.toNat → written s.cmd i ∧ written s.bak i
  verdict : s.err ∈ [ErrorKind.none, .checksumMismatch, .headerMismatch, .transportTimeout, .badLength,
    .illegalOp].map errorCode

/-- The invariant of the block. -/
structure BlockInv (s : State) : Prop where
  buffers : BufferInv s
  framer : FramerInv s
  exchange : ExchangeInv s

/-- `BUILD` in this state reads only written payload bytes, or refuses its length (R49, R140, R141(b)). -/
def payloadWritten (s : State) : Prop :=
  5 ≤ s.argL.toNat → s.argL.toNat ≤ s.par.cmdCap → ∀ i, 4 ≤ i → i + 1 < s.argL.toNat → written s.cmd i

/-- The host read of a location reaches no unwritten window byte (R49, R70). -/
def windowWritten (s : State) : Location → Prop
  | .reg _ | .reserved => True
  | .cmd i => written s.cmd i
  | .fbuf i => written s.fbuf i
  | .ret i => written s.ret i

/-- The reads of an instruction that a host program answers for: a window read, and the payload of `BUILD`
(93_implementation_defined.md I1). -/
def ReadsWritten (s : State) : Instr → Prop
  | .build => payloadWritten s
  | .regRead off => windowWritten s (locate s.par off)
  | .regWrite off v => off = 0x000 → v = 0x02 → payloadWritten s
  | _ => True

/-- The transmit events of a history, oldest first (R148). -/
def txEvents : List Event → List (List Byte)
  | [] => []
  | .tx bytes :: es => bytes :: txEvents es
  | .fwd _ :: es => txEvents es
  | .readData _ _ :: es => txEvents es

/-- The framer outcomes of a history, oldest first (R198). -/
def fwdOutcomes : List Event → List FwdOutcome
  | [] => []
  | .fwd o :: es => o :: fwdOutcomes es
  | .tx _ :: es => fwdOutcomes es
  | .readData _ _ :: es => fwdOutcomes es

/-- A step of the transport or of the ready source: what may happen while the host waits (R149, R150, R162). -/
def portStep : Instr → Bool
  | .rxByte _ => true
  | .rdyEdge _ => true
  | _ => false

/-- What may happen between `BUILD` and the last attempt of one command, besides the attempts' own operations (R163): any
step that writes neither `CMD`, `BAK` nor `LAST_L` and transmits nothing, and `RESTORE`. So received bytes, edges, host
reads, fed bytes and frames, operand writes, the checksum unit and the other operations, but not `BUILD`, `PAYLOAD_ACQ`,
`FWD_DRAIN` or a write of the command window, which R163 excludes, nor `XMIT`, which is an attempt, nor `INIT`, after which
nothing is built (R221). -/
def betweenAttempts (p : Params) : Instr → Bool
  | .init | .build | .payloadAcq | .xmit | .fwdDrain => false
  | .regWrite off _ => match locate p off with
    | .cmd _ => false
    | .reg r => r != .op
    | .fbuf _ | .ret _ | .reserved => true
  | .nop | .validate | .restore | .synthStandby | .retClr | .rdyClr | .poll | .csClr | .reservedOp _ => true
  | .fwdByte _ | .csAdd _ | .regRead _ | .rxByte _ | .rdyEdge _ => true
  | .frameHello _ | .frameStandby _ | .frameGetSensorId _ | .frameGetWavelength _ | .frameAcqSpectrum _ _
  | .frameGetSpectrum _ _ | .frameAcqXyz _ _ | .frameGetXyz _ _ | .frameUnknown _ _ => true

/-- A host read that reaches a buffer window. -/
def readsWindow (p : Params) : Instr → Bool
  | .regRead off => match locate p off with
    | .cmd _ | .fbuf _ | .ret _ => true
    | .reg _ | .reserved => false
  | _ => false

/-- One attempt of a command, with the steps around its `XMIT` and its `VALIDATE`. -/
structure AttemptSteps where
  before : List Instr
  during : List Instr
  after : List Instr
  deriving DecidableEq, Repr

/-- Every step around the attempt's own operations. -/
def AttemptSteps.steps (a : AttemptSteps) : List Instr := a.before ++ a.during ++ a.after

/-- The attempt as instructions: an exchange (R103(d)) with the steps around it. -/
def AttemptSteps.instrs (a : AttemptSteps) : List Instr :=
  a.before ++ .xmit :: a.during ++ .validate :: a.after

/-- The first attempt and the retries, each after a `RESTORE` (R162, R103(e)). -/
def attemptInstrs (first : AttemptSteps) (retries : List AttemptSteps) : List Instr :=
  first.instrs ++ retries.flatMap fun a => .restore :: a.instrs

/-- The attempt in which the transport delivers these bytes and nothing else happens. -/
def answeredBy (bytes : List Byte) : Attempt := { lead := [], restored := [], during := bytes.map .rx, timedOut := false }

/-- The bytes are a return frame that the command last built accepts (R152). -/
abbrev validAnswer (s : State) (bytes : List Byte) : Prop :=
  bytes.take 4 = frameHeader s.par s.lastFc s.lastUc ∧ valid8 bytes = true

/-- No frame in progress and none filled. -/
abbrev idleFramer (s : State) : Prop := s.ffilled = false ∧ s.fcur = 0

/-- The six frame rows that the framer recognises (R190), with their function code, user code and payload. -/
def dispatchFrame : Instr → Option (FunctionCode × Byte × List Byte)
  | .frameHello uc => some (.hello, uc, [])
  | .frameStandby uc => some (.standby, uc, [])
  | .frameGetSensorId uc => some (.getSensorId, uc, [])
  | .frameGetWavelength uc => some (.getWavelength, uc, [])
  | .frameAcqSpectrum uc a => some (.acqSpectrum, uc, acqBytes a)
  | .frameAcqXyz uc a => some (.acqXyz, uc, acqBytes a)
  | _ => none

/-- The three frame rows that the framer does not recognise (R190), likewise. -/
def unrecognisedFrame : Instr → Option (FunctionCode × Byte × List Byte)
  | .frameGetSpectrum uc payload => some (.getSpectrum, uc, payload)
  | .frameGetXyz uc payload => some (.getXyz, uc, payload)
  | .frameUnknown uc payload => some (.unknown, uc, payload)
  | _ => none

/-- Who writes, in the words of R22's column "written by". -/
inductive Writer where
  | nobody
  | host
  | init
  | build
  | payloadAcq
  | xmit
  | validate
  | restore
  | synthStandby
  | retClr
  | rdyClr
  | poll
  | fwdDrain
  | csClr
  | csAdd
  | fwdByte
  | rxByte
  | readyEdge
  | verdictOnly
  deriving DecidableEq, Repr

/-- The writer that an instruction is. A relayed frame is a run of `FWD_BYTE` (log 4). `verdictOnly` is an `OP` operation
that writes `ERR` alone. -/
def writerOf : Instr → Writer
  | .nop | .reservedOp _ => .verdictOnly
  | .init => .init
  | .build => .build
  | .payloadAcq => .payloadAcq
  | .xmit => .xmit
  | .validate => .validate
  | .restore => .restore
  | .synthStandby => .synthStandby
  | .retClr => .retClr
  | .rdyClr => .rdyClr
  | .poll => .poll
  | .fwdDrain => .fwdDrain
  | .csClr => .csClr
  | .csAdd _ => .csAdd
  | .regWrite _ _ => .host
  | .regRead _ => .nobody
  | .rxByte _ => .rxByte
  | .rdyEdge _ => .readyEdge
  | .fwdByte _ | .frameHello _ | .frameStandby _ | .frameGetSensorId _ | .frameGetWavelength _
  | .frameAcqSpectrum _ _ | .frameGetSpectrum _ _ | .frameAcqXyz _ _ | .frameGetXyz _ _ | .frameUnknown _ _ => .fwdByte

/-- The operations that are started through `OP` (R223). -/
def opWriters : List Writer :=
  [.verdictOnly, .init, .build, .payloadAcq, .xmit, .validate, .restore, .synthStandby, .retClr, .rdyClr, .poll,
    .fwdDrain, .csClr]

end Sys2Proof.Safety
end

