-- ==== Sys2Proof/Certificates/Slice0/Obligations.lean ====
section
/-! DEFINITION. The statements for the provers. A statement fixes the whole next state: it names the fields the
instruction writes, and its last clause, of the form "the new state with those fields put back is the old state", says
that every other field is unchanged. A write to a buffer is said through the read of one byte. -/

open Sys2Proof Sys2Proof.Machine Sys2Proof.Safety

/-! ### Encoding -/

/-- Decoding the encoding of a well-formed instruction gives it back, for every legal parameter set and every operand
(30_encoding.md sections 1 to 4). -/
def Obligations.DecodeOfEncodeIsTheInstruction : Prop :=
  ∀ (c : LegalParams) (i : Instr), wellFormed c.params i = true → decode c.params (encode c.params i) = .ok i

/-- A transaction that decodes is the encoding of a well-formed instruction, and no other well-formed instruction has that
encoding. That a frame row is a transaction of its own is the model's reading (log 4). -/
def Obligations.EncodeOfDecodeIsTheTransaction : Prop :=
  ∀ (c : LegalParams) (t : Transaction) (i : Instr), decode c.params t = .ok i →
    wellFormed c.params i = true ∧ encode c.params i = t ∧
      ∀ j, wellFormed c.params j = true → encode c.params j = t → j = i

/-- R97, R98: the op-code map on all 256 bytes. How a table word is laid out is the model's choice (log 10). -/
def Obligations.OpCodeMapIsTheTable : Prop :=
  [0x00, 0x01, 0x02, 0x03, 0x04, 0x05, 0x06, 0x07, 0x08, 0x09, 0x0A, 0x0B, 0x0C].map (decodeTableWord 8) =
      [some .nop, some .init, some .build, some .payloadAcq, some .xmit, some .validate, some .restore,
        some .synthStandby, some .retClr, some .rdyClr, some .poll, some .fwdDrain, some .csClr] ∧
    ∀ v : Byte, 0x0D ≤ v.toNat → decodeWrite 0x000 v = .reservedOp v

/-- The words of the two data-trigger rows, and a Hello frame written out byte by byte, decode to what they stand for
(under T, 95_test_vectors.md E3). The words' layout is the model's choice (log 10). -/
def Obligations.TriggerAndFrameWordsDecode : Prop :=
  decodeTableWord 16 0x00D = some (.fwdByte 0) ∧ decodeTableWord 24 0x10000D = some (.fwdByte 0x10) ∧
    decodeTableWord 16 0x017 = some (.csAdd 0) ∧
    decode Params.illustrative (.relay [0xAA, 0x55, 0x01, 0x10, 0xF0]) = .ok (.frameHello 0x10)

/-! ### The step -/

/-- The step takes the next pending transaction and runs the instruction it carries, on the state with that transaction
gone; bytes that are no frame are refused by name; with nothing pending the state stays. The schedule and the refusal are
the model's choices (log 2, log 16). -/
def Obligations.StepRunsTheDecodedInstruction : Prop :=
  ∀ s : State,
    (s.pending = [] → step s = .next s) ∧
    ∀ (t : Transaction) (rest : List Transaction), s.pending = t :: rest →
      (∀ i, decode s.par t = .ok i → step s = exec i { s with pending := rest }) ∧
      (∀ why, decode s.par t = .error why → step s = .refused (.notAFrame why))

/-- No instruction writes the parameters or the schedule, and the history only grows: the model's own fields (log 1,
log 2, log 3). -/
def Obligations.ParametersStayAndHistoryGrows : Prop :=
  ∀ (i : Instr) (s t : State), exec i s = .next t →
    t.cfg = s.cfg ∧ t.pending = s.pending ∧ ∃ es, t.history = s.history ++ es

/-- R10: a parameter set that obeys the constraints powers on with exactly those parameters; one that breaks a
constraint is refused. -/
def Obligations.PowerOnRefusesIllegalParameters : Prop :=
  ∀ p : Params,
    let obeys := ([p.fcHello, p.fcStandby, p.fcGetSensorId, p.fcGetWavelength, p.fcAcqSpectrum, p.fcGetSpectrum,
        p.fcAcqXyz, p.fcGetXyz, p.fcUnknown].Pairwise (· ≠ ·)) ∧ 10 ≤ p.cmdCap ∧ p.cmdCap ≤ 255 ∧ 5 ≤ p.retCap ∧
        p.retCap ≤ 1024 ∧ 5 ≤ p.rStandby ∧ p.rStandby ≤ p.retCap
    (obeys → ∃ s, State.powerOn p = .next s ∧ s.par = p ∧ s = State.resetWith s.cfg) ∧
      (¬ obeys → State.powerOn p = .refused .illegalParameters)

/-- R270, with the values of R51: the state after power-on, for every parameter set; no buffer byte is written, no event
has been emitted, and no step happens by itself. -/
def Obligations.ResetValuesAreTheTables : Prop :=
  ∀ c : LegalParams,
    let s := State.resetWith c
    (s.argFc = 0 ∧ s.argUc = 0 ∧ s.argL = 0 ∧ s.argR = 0 ∧ s.argIt = 0 ∧ s.argAvg = 0 ∧ s.argAe = 0) ∧
      (waitFlag s = false ∧ silentFlag s = false ∧ s.argFlags = 0) ∧ s.err = 0x00 ∧ s.fcur = 0 ∧ s.ffilled = false ∧
      s.rdyFlag = false ∧ (s.ok = false ∧ s.fetchDue = false ∧ s.drained = false) ∧
      s.asyncFc = c.params.fcUnknown ∧ s.lastFc = c.params.fcUnknown ∧ s.lastUc = 0 ∧ s.lastL = 0 ∧ s.retSize = 0 ∧
      s.rxCnt = 0 ∧ s.csAcc = 0 ∧ statusByte s = 0x20 ∧ s.history = [] ∧ step s = .next s ∧
      ∀ i, Memory.read s.cmd i = none ∧ Memory.read s.bak i = none ∧ Memory.read s.fbuf i = none ∧
        Memory.read s.ret i = none

/-! ### The register interface -/

/-- R62, R70: a read of a register returns its current value to the host; a write-only register reads 0x00; nothing else
changes. The returned byte stands in the history (log 3). -/
def Obligations.RegReadReturnsTheRegister : Prop :=
  ∀ s : State,
    let returns (off : Half) (v : Byte) : Prop :=
      exec (.regRead off) s = .next { s with history := s.history ++ [.readData off v] }
    returns 0x000 0x00 ∧ returns 0x001 (statusByte s) ∧ returns 0x002 s.err ∧ returns 0x003 s.argFc ∧
      returns 0x004 s.argUc ∧ returns 0x005 s.argL ∧ returns 0x006 (s.argR.extractLsb' 0 8) ∧
      returns 0x007 (s.argR.extractLsb' 8 8) ∧ returns 0x008 (0#6 ++ s.argFlags) ∧
      returns 0x009 (s.argIt.extractLsb' 0 8) ∧ returns 0x00A (s.argIt.extractLsb' 8 8) ∧ returns 0x00B s.argAvg ∧
      returns 0x00C s.argAe ∧ returns 0x00D 0x00 ∧ returns 0x00E s.fcur ∧ returns 0x00F s.asyncFc ∧
      returns 0x010 s.lastFc ∧ returns 0x011 s.lastUc ∧ returns 0x012 s.lastL ∧
      returns 0x013 (s.retSize.extractLsb' 0 8) ∧ returns 0x014 (s.retSize.extractLsb' 8 8) ∧
      returns 0x015 (s.rxCnt.extractLsb' 0 8) ∧ returns 0x016 (s.rxCnt.extractLsb' 8 8) ∧ returns 0x017 0x00 ∧
      returns 0x018 s.csAcc ∧ returns 0x019 (0 - s.csAcc)

/-- R63 to R65, R49: a window read returns the buffer byte (in the history, log 3), or faults where nothing has written
it (the model's choice of R49's two, log 5). -/
def Obligations.RegReadOfAWindowReturnsTheByte : Prop :=
  ∀ (s : State) (off : Half) (i : Nat) (b : Buffer) (m : Memory),
    ((off.toNat = 0x100 + i ∧ i < s.par.cmdCap ∧ b = .cmd ∧ m = s.cmd) ∨
      (off.toNat = 0x200 + i ∧ i < s.par.cmdCap ∧ b = .fbuf ∧ m = s.fbuf) ∨
      (off.toNat = 0x400 + i ∧ i < s.par.retCap ∧ b = .ret ∧ m = s.ret)) →
    (∀ v, Memory.read m i = some v →
        exec (.regRead off) s = .next { s with history := s.history ++ [.readData off v] }) ∧
      (Memory.read m i = none → exec (.regRead off) s = .fault (.unwrittenByte b i))

/-- R66: a reserved offset reads 0x00 (in the history, log 3) and ignores writes, with no other effect. -/
def Obligations.ReservedOffsetsReadZeroAndIgnoreWrites : Prop :=
  ∀ (s : State) (off : Half) (v : Byte),
    ((0x01A ≤ off.toNat ∧ off.toNat ≤ 0x0FF) ∨ (0x100 + s.par.cmdCap ≤ off.toNat ∧ off.toNat ≤ 0x1FF) ∨
      (0x200 + s.par.cmdCap ≤ off.toNat ∧ off.toNat ≤ 0x2FF) ∨ (0x300 ≤ off.toNat ∧ off.toNat ≤ 0x3FF) ∨
      (0x400 + s.par.retCap ≤ off.toNat)) →
    exec (.regRead off) s = .next { s with history := s.history ++ [.readData off 0x00] } ∧
      exec (.regWrite off v) s = .next s

/-- R31: the bits of `STATUS`; a host read returns it and changes no item of state, a host write is ignored. That the
returned byte stands in the history is the model's choice (log 3). -/
def Obligations.StatusIsAViewOfSingleBits : Prop :=
  ∀ (s : State) (v : Byte),
    (statusByte s).getLsbD 0 = s.ffilled ∧ (statusByte s).getLsbD 1 = s.rdyFlag ∧ (statusByte s).getLsbD 2 = s.ok ∧
      (statusByte s).getLsbD 3 = s.fetchDue ∧ (statusByte s).getLsbD 4 = s.drained ∧
      (statusByte s).getLsbD 5 = decide (s.csAcc = 0) ∧ (statusByte s).getLsbD 6 = decide (s.retSize ≠ 0) ∧
      (statusByte s).getLsbD 7 = decide (s.asyncFc ≠ s.par.fcUnknown) ∧
      exec (.regRead 0x001) s = .next { s with history := s.history ++ [.readData 0x001 (statusByte s)] } ∧
      exec (.regWrite 0x001 v) s = .next s

/-- R71, R27, R69: a write to an operand register stores the byte there (`ARG_FLAGS`: its bits 1:0), and a read of any
other register gives what it gave. -/
def Obligations.RegWriteStoresTheOperand : Prop :=
  ∀ (s : State) (v : Byte) (r : Reg),
    r ∈ [Reg.argFc, .argUc, .argL, .argRLo, .argRHi, .argFlags, .argItLo, .argItHi, .argAvg, .argAe] →
    ∃ t, exec (.regWrite (regOffset r) v) s = .next t ∧
      regValue t r = (if r = .argFlags then v &&& 0x03 else v) ∧
      (∀ r', r' ≠ r → regValue t r' = regValue s r') ∧
      { t with argFc := s.argFc, argUc := s.argUc, argL := s.argL, argR := s.argR, argFlags := s.argFlags,
               argIt := s.argIt, argAvg := s.argAvg, argAe := s.argAe } = s

/-- R63, R71: a write in the command window sets that byte of `CMD` and nothing else. -/
def Obligations.RegWriteInTheCommandWindow : Prop :=
  ∀ (s : State) (off : Half) (v : Byte) (i : Nat), off.toNat = 0x100 + i → i < s.par.cmdCap →
    ∃ t, exec (.regWrite off v) s = .next t ∧
      (∀ j, Memory.read t.cmd j = if j = i then some v else Memory.read s.cmd j) ∧ { t with cmd := s.cmd } = s

/-- R64 to R66, R71: a write to a read-only register or to a read-only window is ignored. -/
def Obligations.RegWriteToReadOnlyIsIgnored : Prop :=
  ∀ (s : State) (off : Half) (v : Byte),
    (off ∈ [0x001, 0x002, 0x00E, 0x00F, 0x010, 0x011, 0x012, 0x013, 0x014, 0x015, 0x016, 0x018, 0x019] ∨
      (0x200 ≤ off.toNat ∧ off.toNat < 0x200 + s.par.cmdCap) ∨
      (0x400 ≤ off.toNat ∧ off.toNat < 0x400 + s.par.retCap)) →
    exec (.regWrite off v) s = .next s

/-- R71, R97, R99: a write to a trigger register is the operation that it starts. That the constructor for plain writes
means this too is the model's choice (log 17). -/
def Obligations.RegWriteToATriggerIsItsOperation : Prop :=
  ∀ (s : State) (v : Byte),
    exec (.regWrite 0x000 v) s = exec (decodeOp v) s ∧ exec (.regWrite 0x00D v) s = exec (.fwdByte v) s ∧
      exec (.regWrite 0x017 v) s = exec (.csAdd v) s

/-! ### Checksum -/

/-- R120, R121: `Sum8` is the sum of the unsigned bytes modulo 256, `Checksum8` its two's-complement negation in 8
bits. -/
def Obligations.ChecksumIsTheNegatedModularSum : Prop :=
  ∀ bs : List Byte,
    (sum8 bs).toNat = (bs.map BitVec.toNat).sum % 256 ∧
      (checksum8 bs).toNat = (256 - (sum8 bs).toNat) % 256 ∧ (∀ cs, bs.Perm cs → sum8 cs = sum8 bs) ∧
      (checksum8 bs = 0x00 ↔ sum8 bs = 0x00) ∧ (sum8 bs = 0x80 → checksum8 bs = 0x80)

/-- R123: a sequence with its checksum appended validates. -/
def Obligations.AppendedChecksumValidates : Prop := ∀ bs : List Byte, valid8 (bs ++ [checksum8 bs]) = true

/-- R124 and its consequences (a) to (d). -/
def Obligations.ValidationIsTheModularSum : Prop :=
  (∀ bs : List Byte, valid8 bs = true ↔ (bs.map BitVec.toNat).sum % 256 = 0) ∧
    (∀ (l r : List Byte) (b b' : Byte), valid8 (l ++ b :: r) = true → b' ≠ b → valid8 (l ++ b' :: r) = false) ∧
    (∀ (l m r : List Byte) (b c d : Byte),
      valid8 (l ++ (b + d) :: m ++ (c - d) :: r) = valid8 (l ++ b :: m ++ c :: r)) ∧
    (∀ bs cs : List Byte, bs.Perm cs → valid8 bs = valid8 cs) ∧
    (∀ n, valid8 (List.replicate n 0x00) = true) ∧
    (∀ (bs : List Byte) (k : Byte), valid8 (bs ++ [k]) = true → k = checksum8 bs)

/-- R126, R127: `CS_ADD` adds one byte modulo 256, whatever was added before; after `CS_CLR` and the bytes of a sequence
the accumulator is its `Sum8`, which `CS_SUM` reads, `CS_CHK` reads its `Checksum8`, and `STATUS.CS_ZERO` is its `Valid8`
verdict. Nothing but `CS_ACC` and `ERR` changes. That a read's byte stands in the history is the model's choice
(log 3). -/
def Obligations.ChecksumUnitSumsTheSequence : Prop :=
  (∀ (s : State) (b : Byte),
    exec (.csAdd b) s = .next { s with csAcc := BitVec.ofNat 8 ((s.csAcc.toNat + b.toNat) % 256) }) ∧
  (∀ s : State,
    exec (.regRead 0x018) s = .next { s with history := s.history ++ [.readData 0x018 s.csAcc] } ∧
      exec (.regRead 0x019) s = .next { s with
        history := s.history ++ [.readData 0x019 (BitVec.ofNat 8 ((256 - s.csAcc.toNat) % 256))] } ∧
      ((statusByte s).getLsbD 5 = true ↔ s.csAcc = 0)) ∧
  ∀ (s : State) (bs : List Byte), ∃ t, execAll (.csClr :: bs.map .csAdd) s = .next t ∧ t.csAcc = sum8 bs ∧
    regValue t .csSum = sum8 bs ∧ regValue t .csChk = checksum8 bs ∧ (statusByte t).getLsbD 5 = valid8 bs ∧
    t.err = 0x00 ∧ { t with csAcc := s.csAcc, err := s.err } = s

/-- R125: `CS_CLR` clears the accumulator and reports success; `STATUS.CS_ZERO` reads 1 and `CS_CHK` 0x00 afterwards; a
second one changes nothing. -/
def Obligations.ChecksumClearZeroesTheAccumulator : Prop :=
  ∀ s : State, ∃ t, exec .csClr s = .next t ∧ t = { s with csAcc := 0x00, err := 0x00 } ∧
    (statusByte t).getLsbD 5 = true ∧ regValue t .csChk = 0x00 ∧ exec .csClr t = .next t

/-- R128: the builder and the framer neither read nor write `CS_ACC`. -/
def Obligations.BuilderAndFramerDoNotTouchTheAccumulator : Prop :=
  ∀ (i : Instr) (s : State) (v b : Byte), i ∈ [.build, .validate, .synthStandby, .fwdByte b] →
    (∀ t, exec i s = .next t → t.csAcc = s.csAcc ∧ exec i { s with csAcc := v } = .next { t with csAcc := v }) ∧
      (∀ f, exec i s = .fault f → exec i { s with csAcc := v } = .fault f)

/-! ### Control, and the operations that write one thing -/

/-- R220, R222: `NOP` and a reserved op code write `ERR` and nothing else, started by their instruction or by the write
of the op code to `OP`. -/
def Obligations.NopAndReservedOpWriteOnlyErr : Prop :=
  ∀ (s : State) (code : Byte),
    exec .nop s = .next { s with err := 0x00 } ∧ exec (.reservedOp code) s = .next { s with err := 0x11 } ∧
      exec (.regWrite 0x000 0x00) s = .next { s with err := 0x00 } ∧
      (0x0D ≤ code.toNat → exec (.regWrite 0x000 code) s = .next { s with err := 0x11 })

/-- R221: `INIT` gives every item of R22 but the buffers its reset value, and `STATUS` reads 0x20. -/
def Obligations.InitResetsAllButTheBuffers : Prop :=
  ∀ s : State, ∃ t, exec .init s = .next t ∧
    (t.cmd = s.cmd ∧ t.bak = s.bak ∧ t.fbuf = s.fbuf ∧ t.ret = s.ret) ∧ statusByte t = 0x20 ∧
    { t with cmd := [], bak := [], fbuf := [], ret := [], history := [], freeCtr := 0, pending := [] } =
      State.resetWith s.cfg

/-- R157, R158, R155: `RET_CLR`, `RDY_CLR` and `RESTORE` write one thing and `ERR`. -/
def Obligations.ClearsAndRestore : Prop :=
  ∀ s : State,
    exec .retClr s = .next { s with retSize := 0, err := 0x00 } ∧
      exec .rdyClr s = .next { s with rdyFlag := false, err := 0x00 } ∧
      ∃ t, exec .restore s = .next t ∧ (∀ j, Memory.read t.cmd j = Memory.read s.bak j) ∧ t.err = 0x00 ∧
        { t with cmd := s.cmd, err := s.err } = s

/-- R223: every operation started through `OP` writes `ERR`, 0x00 or an error code that `ERR` can hold; every other
instruction leaves it. -/
def Obligations.OnlyOpOperationsWriteErr : Prop :=
  ∀ (i : Instr) (s t : State), wellFormed s.par i = true → exec i s = .next t →
    (writerOf i ∈ opWriters → t.err ∈ [0x00, 0x01, 0x02, 0x03, 0x10, 0x11]) ∧
      (writerOf i ∉ opWriters → t.err = s.err)

/-- R22, column "written by": an item of state changes only in a step of a writer listed there. -/
def Obligations.OnlyTheListedWritersWrite : Prop :=
  ∀ (i : Instr) (s t : State), wellFormed s.par i = true → exec i s = .next t →
    let w := writerOf i
    (t.argFc = s.argFc ∨ w ∈ [.host, .poll, .fwdDrain, .init]) ∧
      (t.argUc = s.argUc ∨ w ∈ [.host, .poll, .fwdDrain, .init]) ∧
      (t.argL = s.argL ∨ w ∈ [.host, .fwdDrain, .init]) ∧ (t.argR = s.argR ∨ w ∈ [.host, .init]) ∧
      (t.argFlags = s.argFlags ∨ w ∈ [.host, .poll, .init]) ∧ (t.argIt = s.argIt ∨ w ∈ [.host, .init]) ∧
      (t.argAvg = s.argAvg ∨ w ∈ [.host, .init]) ∧ (t.argAe = s.argAe ∨ w ∈ [.host, .init]) ∧
      (t.err = s.err ∨ w ∈ opWriters) ∧ (t.fcur = s.fcur ∨ w ∈ [.fwdByte, .init]) ∧
      (t.ffilled = s.ffilled ∨ w ∈ [.fwdByte, .fwdDrain, .init]) ∧
      (t.rdyFlag = s.rdyFlag ∨ w ∈ [.readyEdge, .build, .rdyClr, .init]) ∧
      (t.ok = s.ok ∨ w ∈ [.xmit, .validate, .synthStandby, .init]) ∧
      (t.fetchDue = s.fetchDue ∨ w ∈ [.poll, .init]) ∧ (t.drained = s.drained ∨ w ∈ [.fwdDrain, .init]) ∧
      (t.asyncFc = s.asyncFc ∨ w ∈ [.build, .init]) ∧ (t.lastFc = s.lastFc ∨ w ∈ [.build, .init]) ∧
      (t.lastUc = s.lastUc ∨ w ∈ [.build, .init]) ∧ (t.lastL = s.lastL ∨ w ∈ [.build, .init]) ∧
      (t.retSize = s.retSize ∨ w ∈ [.xmit, .validate, .synthStandby, .retClr, .init]) ∧
      (t.rxCnt = s.rxCnt ∨ w ∈ [.xmit, .rxByte, .init]) ∧ (t.csAcc = s.csAcc ∨ w ∈ [.csClr, .csAdd, .init]) ∧
      (t.cmd = s.cmd ∨ w ∈ [.host, .build, .payloadAcq, .xmit, .restore, .fwdDrain]) ∧
      (t.bak = s.bak ∨ w ∈ [.build]) ∧ (t.fbuf = s.fbuf ∨ w ∈ [.fwdByte]) ∧
      (t.ret = s.ret ∨ w ∈ [.rxByte, .synthStandby])

/-! ### The command packet builder -/

/-- R140: a failed length check writes `ERR` and nothing else, but that a failed `VALIDATE` also clears `OK` and
`RET_SIZE`. -/
def Obligations.LengthChecksReject : Prop :=
  ∀ s : State,
    (s.argL.toNat < 5 ∨ s.par.cmdCap < s.argL.toNat → exec .build s = .next { s with err := 0x10 }) ∧
      (s.lastL = 0 → exec .xmit s = .next { s with err := 0x10 }) ∧
      (s.argR.toNat < 5 ∨ s.par.retCap < s.argR.toNat →
        exec .validate s = .next { s with err := 0x10, ok := false, retSize := 0 })

/-- R141: `BUILD` with a legal length over a written payload leaves the frame of R90 in `CMD[0..L-1]` and the rest of
`CMD` as it was, copies the buffer to `BAK`, and tracks the command; any other length is refused in `ERR`. -/
def Obligations.BuildInsertsHeaderAndChecksum : Prop :=
  ∀ s : State,
    (s.argL.toNat < 5 ∨ s.par.cmdCap < s.argL.toNat → exec .build s = .next { s with err := 0x10 }) ∧
    ∀ payload : List Byte, 5 ≤ s.argL.toNat → s.argL.toNat ≤ s.par.cmdCap →
    Memory.readRange s.cmd 4 (s.argL.toNat - 5) = .ok payload →
    ∃ t, exec .build s = .next t ∧
      Memory.readRange t.cmd 0 s.argL.toNat =
        .ok ([s.par.prefix0, s.par.prefix1, s.argFc, s.argUc] ++ payload ++
          [checksum8 ([s.par.prefix0, s.par.prefix1, s.argFc, s.argUc] ++ payload)]) ∧
      (∀ j, s.argL.toNat ≤ j → Memory.read t.cmd j = Memory.read s.cmd j) ∧
      (∀ j, Memory.read t.bak j = Memory.read t.cmd j) ∧
      t.asyncFc = (if s.argFlags.getLsbD 0 then s.argFc else s.par.fcUnknown) ∧ t.rdyFlag = false ∧
      t.lastFc = s.argFc ∧ t.lastUc = s.argUc ∧ t.lastL = s.argL ∧ t.err = 0x00 ∧
      { t with cmd := s.cmd, bak := s.bak, asyncFc := s.asyncFc, rdyFlag := s.rdyFlag, lastFc := s.lastFc,
               lastUc := s.lastUc, lastL := s.lastL, err := s.err } = s

/-- R49, 93_implementation_defined.md I1: `BUILD` over an unwritten payload byte faults, at the first such byte (the
model's choice of R49's two, log 5). -/
def Obligations.BuildFaultsOnUnwrittenPayload : Prop :=
  ∀ (s : State) (i : Nat), s.argL.toNat ≤ s.par.cmdCap → 4 ≤ i → i + 1 < s.argL.toNat →
    Memory.read s.cmd i = none → (∀ j, 4 ≤ j → j < i → written s.cmd j) →
    exec .build s = .fault (.unwrittenByte .cmd i)

/-- R142, first sentence: building a frame that already validates leaves every byte of `CMD` as it was. -/
def Obligations.RebuildingAValidFrameKeepsIt : Prop :=
  ∀ (s : State) (rest : List Byte), 5 ≤ s.argL.toNat → s.argL.toNat ≤ s.par.cmdCap →
    Memory.readRange s.cmd 0 s.argL.toNat = .ok ([s.par.prefix0, s.par.prefix1, s.argFc, s.argUc] ++ rest) →
    valid8 ([s.par.prefix0, s.par.prefix1, s.argFc, s.argUc] ++ rest) = true →
    ∃ t, exec .build s = .next t ∧ t.err = 0x00 ∧ ∀ j, Memory.read t.cmd j = Memory.read s.cmd j

/-- R143, R92: `PAYLOAD_ACQ` writes `CMD[4..8]`, the integration time little-endian, the reserved byte 0x00. -/
def Obligations.PayloadAcqWritesTheFiveBytes : Prop :=
  ∀ s : State, ∃ t, exec .payloadAcq s = .next t ∧
    Memory.readRange t.cmd 4 5 =
      .ok [s.argIt.extractLsb' 0 8, s.argIt.extractLsb' 8 8, s.argAvg, s.argAe, 0x00] ∧
    (∀ j, j < 4 ∨ 9 ≤ j → Memory.read t.cmd j = Memory.read s.cmd j) ∧ t.err = 0x00 ∧
    { t with cmd := s.cmd, err := s.err } = s

/-- R144, R145, R148: `XMIT` emits the built command as `CMD` holds it, flushes the receive side and withdraws the packet;
the sent bytes of `CMD` then hold values of which nothing is said; with nothing built it writes `ERR` alone. -/
def Obligations.XmitEmitsTheCommand : Prop :=
  ∀ (s : State) (frame : List Byte),
    (s.lastL = 0 → exec .xmit s = .next { s with err := 0x10 }) ∧
    (s.lastL ≠ 0 → Memory.readRange s.cmd 0 s.lastL.toNat = .ok frame →
      ∃ t, exec .xmit s = .next t ∧ t.history = s.history ++ [.tx frame] ∧ t.rxCnt = 0 ∧ t.retSize = 0 ∧
        t.ok = false ∧ t.err = 0x00 ∧ (∀ j, j < s.lastL.toNat → written t.cmd j) ∧
        (∀ j, s.lastL.toNat ≤ j → Memory.read t.cmd j = Memory.read s.cmd j) ∧
        { t with history := s.history, rxCnt := s.rxCnt, retSize := s.retSize, ok := s.ok, err := s.err,
                 cmd := s.cmd, freeCtr := s.freeCtr } = s)

/-- R156: `SYNTH_STANDBY` writes the canonical frame into `RET[0..R_STANDBY-1]` and makes it available. -/
def Obligations.SynthStandbyWritesTheFrame : Prop :=
  ∀ s : State, ∃ t, exec .synthStandby s = .next t ∧
    (let body := [s.par.prefix0, s.par.prefix1, s.par.fcStandby, s.argUc] ++ List.replicate (s.par.rStandby - 5) 0x00
     Memory.readRange t.ret 0 s.par.rStandby = .ok (body ++ [checksum8 body])) ∧
    (∀ j, s.par.rStandby ≤ j → Memory.read t.ret j = Memory.read s.ret j) ∧ t.retSize.toNat = s.par.rStandby ∧
    t.ok = true ∧ t.err = 0x00 ∧ { t with ret := s.ret, retSize := s.retSize, ok := s.ok, err := s.err } = s

/-- R152, R153: the verdict of `VALIDATE`, the first failing check in the order length, timeout, header, checksum; the
`R` bytes it judges are written (R50(d) and log 7 say why they are in every reachable state). -/
def Obligations.ValidateGivesTheFirstVerdict : Prop :=
  ∀ s : State,
    let r := s.argR.toNat
    let fails (e : Byte) : Prop := exec .validate s = .next { s with err := e, ok := false, retSize := 0 }
    (r < 5 ∨ s.par.retCap < r → fails 0x10) ∧
    (5 ≤ r → r ≤ s.par.retCap → s.rxCnt.toNat < r → fails 0x03) ∧
    ∀ frame, 5 ≤ r → r ≤ s.par.retCap → r ≤ s.rxCnt.toNat → Memory.readRange s.ret 0 r = .ok frame →
      (let header := Memory.read s.ret 0 = some s.par.prefix0 ∧ Memory.read s.ret 1 = some s.par.prefix1 ∧
          Memory.read s.ret 2 = some s.lastFc ∧ Memory.read s.ret 3 = some s.lastUc
       (¬ header → fails 0x02) ∧ (header → sum8 frame ≠ 0 → fails 0x01) ∧
        (header → sum8 frame = 0 →
          exec .validate s = .next { s with
            retSize := if s.argFlags.getLsbD 1 then 0 else s.argR, ok := true, err := 0x00 }))

/-- R152 corner case (d): repeating `VALIDATE` repeats the verdict; the state is the same after the second. -/
def Obligations.ValidateRepeatsItsVerdict : Prop :=
  ∀ s t : State, exec .validate s = .next t → exec .validate t = .next t

/-- R160: the fetch mapping. -/
def Obligations.FetchMapsTheTwoAcquisitions : Prop :=
  ∀ (c : LegalParams) (fc : Byte),
    fetchCode c.params c.params.fcAcqSpectrum = some c.params.fcGetSpectrum ∧
      fetchCode c.params c.params.fcAcqXyz = some c.params.fcGetXyz ∧
      (fc ≠ c.params.fcAcqSpectrum → fc ≠ c.params.fcAcqXyz → fetchCode c.params fc = none) ∧
      fetchCode c.params c.params.fcUnknown = none

/-- R159: `POLL` loads the fetch command's operands when the ready trigger has fired and a fetch is defined. -/
def Obligations.PollDecidesTheFetch : Prop :=
  ∀ s : State,
    (∀ fc, s.rdyFlag = true → fetchCode s.par s.asyncFc = some fc →
      exec .poll s = .next { s with argFc := fc, argUc := s.lastUc, argFlags := 0, fetchDue := true, err := 0x00 }) ∧
    (s.rdyFlag = false ∨ fetchCode s.par s.asyncFc = none →
      exec .poll s = .next { s with fetchDue := false, err := 0x00 })

/-- R161: an AcqSpectrum or AcqXYZ command built with `WAIT = 1`, a ready edge, a poll: the matching fetch is due, with
the acquisition's user code; once that fetch is built, a further poll finds nothing. -/
def Obligations.AsyncLifecycleFetchesOnce : Prop :=
  ∀ (s s1 s4 : State) (e : LineEdge) (len : Byte),
    (s.argFc = s.par.fcAcqSpectrum ∨ s.argFc = s.par.fcAcqXyz) → s.argFlags.getLsbD 0 = true →
    exec .build s = .next s1 → s1.err = 0x00 → activeEdge s.par.rdyEdge e = true →
    ∃ s3, execAll [.rdyEdge e, .poll] s1 = .next s3 ∧ s3.fetchDue = true ∧ s3.argUc = s.argUc ∧
      (s.argFc = s.par.fcAcqSpectrum → s3.argFc = s.par.fcGetSpectrum) ∧
      (s.argFc = s.par.fcAcqXyz → s3.argFc = s.par.fcGetXyz) ∧
      (exec .build { s3 with argL := len } = .next s4 → s4.err = 0x00 →
        s4.asyncFc = s.par.fcUnknown ∧ s4.rdyFlag = false ∧ s4.lastFc = s3.argFc ∧ s4.lastUc = s.argUc ∧
        ∃ s5, exec .poll s4 = .next s5 ∧ s5.fetchDue = false)

/-- R163: after a successful `BUILD`, the first attempt and every retry (`RESTORE` before each) transmit the same bytes, the
frame that `BUILD` left in `BAK`: as many `TX` events as attempts, whatever else happens between them that R163 does not
exclude (nor `INIT`, which withdraws the command, nor an `XMIT` more, which is an attempt of its own). With received bytes and ready edges only, while the host waits, every step runs, from every state; with all the
rest too, from every state that meets the invariant, where no host read reaches a buffer window (a window byte may be
unwritten, log 5). A relayed frame is a feed (log 4). -/
def Obligations.RetriesTransmitIdenticalBytes : Prop :=
  (∀ (s s0 : State) (first : List Instr) (retries : List (List Instr)), exec .build s = .next s0 → s0.err = 0x00 →
    (∀ i ∈ first, portStep i = true) → (∀ d ∈ retries, ∀ i ∈ d, portStep i = true) →
    ∃ frame t, Memory.readRange s0.bak 0 s0.lastL.toNat = .ok frame ∧
      execAll ((.xmit :: first ++ [.validate]) ++
        retries.flatMap (fun d => .restore :: .xmit :: d ++ [.validate])) s0 = .next t ∧
      txEvents t.history = txEvents s0.history ++ List.replicate (1 + retries.length) frame ∧ t.bak = s0.bak) ∧
  ∀ (s s0 : State) (first : AttemptSteps) (retries : List AttemptSteps), exec .build s = .next s0 → s0.err = 0x00 →
    (∀ a ∈ first :: retries, ∀ i ∈ a.steps, betweenAttempts s.par i = true) →
    ∃ frame, Memory.readRange s0.bak 0 s0.lastL.toNat = .ok frame ∧
      (∀ t, execAll (attemptInstrs first retries) s0 = .next t →
        txEvents t.history = txEvents s0.history ++ List.replicate (1 + retries.length) frame ∧ t.bak = s0.bak) ∧
      (BlockInv s → (∀ a ∈ first :: retries, ∀ i ∈ a.steps, readsWindow s.par i = false) →
        ∃ t, execAll (attemptInstrs first retries) s0 = .next t)

/-- R103(f), R162, R163: `send`, in both its forms. The procedure of R162 writes its operands and goes on with `BUILD`. A
`BUILD` that fails ends it with nothing transmitted. Otherwise, whatever happens around the attempts that R163 does not
exclude, it has transmitted the frame that `BUILD` left in `BAK` once for each attempt made, and nothing else: one attempt
without retry; success with `ERR = 0x00` and `OK = 1`; one more attempt asked for only with retry, by any other verdict in
the form of R162, by any but `BAD_LENGTH` in that of R103(f) (log 20); failure only without retry, or with that verdict in
the form of R103(f). With retry, and a transport that gives any number of invalid answers and then a valid one, both run and
return success after one event more than there were invalid answers, with the valid answer in `RET`. -/
def Obligations.SendTransmitsUntilAValidAnswer : Prop :=
  (∀ (s : State) (fc uc len : Byte) (r : Half) (wait silent retry : Bool) (first : Attempt) (more : List Attempt),
    ∃ t, sendCommand fc uc len r wait silent retry first more s = runSend .sendCycle retry first more t ∧
      waitFlag t = wait ∧ silentFlag t = silent ∧ { t with argFlags := s.argFlags } =
        { s with argFc := fc, argUc := uc, argL := len, argR := r }) ∧
  ∀ (form : SendForm) (s s0 : State) (first : Attempt) (more : List Attempt), exec .build s = .next s0 →
    (∀ retry, s0.err ≠ 0x00 → runSend form retry first more s = .next (.failure, s0)) ∧
    (s0.err = 0x00 → ∃ frame, Memory.readRange s0.bak 0 s0.lastL.toNat = .ok frame ∧
      (∀ retry v t,
        (∀ a ∈ first :: more, ∀ x ∈ a.lead ++ a.restored ++ a.during, ∀ i, decode s.par x = .ok i →
          betweenAttempts s.par i = true) →
        runSend form retry first more s = .next (v, t) →
        (∃ k, k ≤ more.length ∧ (retry = false → k = 0) ∧ (v = .retrying → k = more.length) ∧
          txEvents t.history = txEvents s0.history ++ List.replicate (k + 1) frame) ∧
        (v = .success → t.err = 0x00 ∧ t.ok = true) ∧
        (v = .retrying → retry = true ∧ (t.err ∈ [0x01, 0x02, 0x03] ∨ (form = .sendCycle ∧ t.err = 0x10))) ∧
        (v = .failure → t.ok = false ∧
          ((retry = false ∧ t.err ∈ [0x01, 0x02, 0x03, 0x10]) ∨ (form = .sendLine ∧ t.err = 0x10)))) ∧
      (∀ (bad : List (List Byte)) (good : List Byte), first :: more = (bad ++ [good]).map answeredBy →
        5 ≤ s.argR.toNat → s.argR.toNat ≤ s.par.retCap → (∀ bs ∈ bad ++ [good], bs.length = s.argR.toNat) →
        (∀ bs ∈ bad, ¬ validAnswer s0 bs) → validAnswer s0 good →
        ∃ t, runSend form true first more s = .next (.success, t) ∧ Memory.readRange t.ret 0 s.argR.toNat = .ok good ∧
          txEvents t.history = txEvents s0.history ++ List.replicate (bad.length + 1) frame))

/-! ### The other agents -/

/-- R151: a received byte goes to `RET[RX_CNT]` while there is room, else it is dropped. -/
def Obligations.RxByteFillsTheReturnBuffer : Prop :=
  ∀ (s : State) (b : Byte),
    (s.rxCnt.toNat < s.par.retCap →
      ∃ t, exec (.rxByte b) s = .next t ∧ t.rxCnt.toNat = s.rxCnt.toNat + 1 ∧
        (∀ j, Memory.read t.ret j = if j = s.rxCnt.toNat then some b else Memory.read s.ret j) ∧
        { t with ret := s.ret, rxCnt := s.rxCnt } = s) ∧
    (s.par.retCap ≤ s.rxCnt.toNat → exec (.rxByte b) s = .next s)

/-- R242: an edge of the polarity `RDY_EDGE` sets the ready flag and nothing else. -/
def Obligations.ReadyEdgeSetsTheFlag : Prop :=
  ∀ (s : State) (e : LineEdge),
    (s.par.rdyEdge = .both ∨ (s.par.rdyEdge = .rising ∧ e = .rising) ∨ (s.par.rdyEdge = .falling ∧ e = .falling)) →
    exec (.rdyEdge e) s = .next { s with rdyFlag := true }

/-- An edge of the other polarity changes nothing: the model's reading (log 9). -/
def Obligations.EdgeOfTheOtherPolarityChangesNothing : Prop :=
  ∀ (s : State) (e : LineEdge),
    ((s.par.rdyEdge = .rising ∧ e = .falling) ∨ (s.par.rdyEdge = .falling ∧ e = .rising)) →
    exec (.rdyEdge e) s = .next s

/-! ### The forward framer -/

/-- R190: the framer's length lookup. -/
def Obligations.FwdLenIsTheTable : Prop :=
  ∀ (c : LegalParams) (fc : Byte),
    (fwdLen c.params fc = some 5 ↔
        fc ∈ [c.params.fcHello, c.params.fcStandby, c.params.fcGetSensorId, c.params.fcGetWavelength]) ∧
      (fwdLen c.params fc = some 10 ↔ fc ∈ [c.params.fcAcqSpectrum, c.params.fcAcqXyz]) ∧
      (fwdLen c.params fc = none ↔
        fc ∉ [c.params.fcHello, c.params.fcStandby, c.params.fcGetSensorId, c.params.fcGetWavelength,
          c.params.fcAcqSpectrum, c.params.fcAcqXyz]) ∧
      fwdLen c.params c.params.fcGetSpectrum = none ∧ fwdLen c.params c.params.fcGetXyz = none ∧
      fwdLen c.params c.params.fcUnknown = none

/-- R192, R193: with a filled frame, or with no frame in progress and no frame start, the byte is discarded: only the
event tag of R198 is left. -/
def Obligations.DiscardedBytesChangeNothing : Prop :=
  ∀ (s : State) (b : Byte),
    (s.ffilled = true → exec (.fwdByte b) s = .next { s with history := s.history ++ [.fwd .dropBackpressure] }) ∧
    (s.ffilled = false → s.fcur = 0 → b ≠ s.par.prefix0 →
      exec (.fwdByte b) s = .next { s with history := s.history ++ [.fwd .dropIdle] })

/-- R191, R194, R195: a byte that is appended and does not complete a frame. In a state that meets the framer's
invariant: the frame start; at offset 1 `PREFIX1` or desynchronisation; at offset 2 a recognised code or none; later
bytes short of the length. -/
def Obligations.FwdByteAppendsOrResets : Prop :=
  ∀ (s : State) (b : Byte), FramerInv s → s.ffilled = false →
    let goes (o : FwdOutcome) (cursor : Nat) : Prop :=
      ∃ t, exec (.fwdByte b) s = .next t ∧ t.fcur.toNat = cursor ∧ t.history = s.history ++ [.fwd o] ∧
        (∀ j, Memory.read t.fbuf j = if j = s.fcur.toNat then some b else Memory.read s.fbuf j) ∧
        { t with fcur := s.fcur, fbuf := s.fbuf, history := s.history } = s
    (s.fcur.toNat = 0 → b = s.par.prefix0 → goes .accept 1) ∧
    (s.fcur.toNat = 1 → (b = s.par.prefix1 → goes .accept 2) ∧ (b ≠ s.par.prefix1 → goes .resetDesync 0)) ∧
    (s.fcur.toNat = 2 → (fwdLen s.par b ≠ none → goes .accept 3) ∧
      (fwdLen s.par b = none → goes .resetUnrecognized 0)) ∧
    (∀ fc n, 3 ≤ s.fcur.toNat → Memory.read s.fbuf 2 = some fc → fwdLen s.par fc = some n →
      s.fcur.toNat + 1 < n → goes .accept (s.fcur.toNat + 1))

/-- R196: the byte that reaches the looked-up length resets the cursor; a valid frame is filled, any other silently
discarded. -/
def Obligations.FwdByteCompletesTheFrame : Prop :=
  ∀ (s : State) (b fc : Byte) (n : Nat) (body : List Byte), FramerInv s → s.ffilled = false → 3 ≤ s.fcur.toNat →
    Memory.read s.fbuf 2 = some fc → fwdLen s.par fc = some n → s.fcur.toNat + 1 = n →
    Memory.readRange s.fbuf 0 s.fcur.toNat = .ok body →
    ∃ t, exec (.fwdByte b) s = .next t ∧ t.fcur = 0 ∧
      (valid8 (body ++ [b]) = true → t.ffilled = true ∧ t.history = s.history ++ [.fwd .complete]) ∧
      (valid8 (body ++ [b]) = false → t.ffilled = false ∧ t.history = s.history ++ [.fwd .resetChecksum]) ∧
      (∀ j, Memory.read t.fbuf j = if j = s.fcur.toNat then some b else Memory.read s.fbuf j) ∧
      { t with fcur := s.fcur, ffilled := s.ffilled, fbuf := s.fbuf, history := s.history } = s

/-- R197: past the capacity a byte is discarded; no state that meets the framer's invariant is there. -/
def Obligations.DropFullIsUnreachable : Prop :=
  (∀ (s : State) (b : Byte), s.ffilled = false → s.fcur ≠ 0 → s.par.cmdCap ≤ s.fcur.toNat →
    exec (.fwdByte b) s = .next { s with history := s.history ++ [.fwd .dropFull] }) ∧
  ∀ (s t : State) (b : Byte), FramerInv s → exec (.fwdByte b) s = .next t →
    t.history ≠ s.history ++ [.fwd .dropFull]

/-- R198: each `FWD_BYTE` step leaves exactly one outcome tag; the discarding tags leave every item of state; every other
tag writes the byte at `FBUF[FCUR]`, and nothing but the framer's own items; `ACCEPT` advances `FCUR` by one, a reset or
completion leaves `FCUR = 0`; only `COMPLETE` sets `FFILLED`. -/
def Obligations.EachFwdByteHasOneOutcome : Prop :=
  ∀ (s t : State) (b : Byte), exec (.fwdByte b) s = .next t →
    ∃ o, t.history = s.history ++ [.fwd o] ∧
      (o ∈ [.dropBackpressure, .dropIdle, .dropFull] → { t with history := s.history } = s) ∧
      (o ∉ [.dropBackpressure, .dropIdle, .dropFull] →
        (∀ j, Memory.read t.fbuf j = if j = s.fcur.toNat then some b else Memory.read s.fbuf j) ∧
        { t with fbuf := s.fbuf, fcur := s.fcur, ffilled := s.ffilled, history := s.history } = s) ∧
      (o = .accept → t.fcur.toNat = s.fcur.toNat + 1) ∧
      (o ∈ [.resetDesync, .resetUnrecognized, .resetChecksum, .complete] → t.fcur = 0) ∧
      (o ≠ .complete → t.ffilled = s.ffilled) ∧
      (o = .complete ↔ s.ffilled = false ∧ t.ffilled = true)

/-- R201, R203: feeding the framer, byte by byte or as a whole frame (log 4), changes only the framer's own state. -/
def Obligations.FramerSharesNothingWithTheBuilder : Prop :=
  ∀ (i : Instr) (s t : State), writerOf i = .fwdByte → exec i s = .next t →
    { t with fbuf := s.fbuf, fcur := s.fcur, ffilled := s.ffilled, history := s.history } = s

/-- R200: draining a filled frame, in a state that meets the framer's invariant; draining nothing. -/
def Obligations.FwdDrainHandsOverTheFrame : Prop :=
  ∀ s : State,
    (s.ffilled = false → exec .fwdDrain s = .next { s with drained := false, err := 0x00 }) ∧
    (FramerInv s → s.ffilled = true →
      ∃ fc uc n frame t, Memory.read s.fbuf 2 = some fc ∧ Memory.read s.fbuf 3 = some uc ∧
        fwdLen s.par fc = some n ∧ Memory.readRange s.fbuf 0 n = .ok frame ∧
        exec .fwdDrain s = .next t ∧ Memory.readRange t.cmd 0 n = .ok frame ∧
        (∀ j, n ≤ j → Memory.read t.cmd j = Memory.read s.cmd j) ∧ t.ffilled = false ∧ t.argFc = fc ∧ t.argUc = uc ∧
        t.argL.toNat = n ∧ t.drained = true ∧ t.err = 0x00 ∧
        { t with cmd := s.cmd, ffilled := s.ffilled, argFc := s.argFc, argUc := s.argUc, argL := s.argL,
                 drained := s.drained, err := s.err } = s)

/-! ### Relayed frames -/

/-- The six dispatch commands' frames (R91, R92, R96, R191), relayed to an idle framer: every byte but the last is
accepted, the last completes, and `FBUF` holds the frame. That a frame row means this feed is the model's reading
(log 4). -/
def Obligations.DispatchFramesAreRecognised : Prop :=
  ∀ (s : State) (i : Instr) (f : FunctionCode) (uc : Byte) (payload : List Byte), idleFramer s →
    dispatchFrame i = some (f, uc, payload) →
    ∃ t, exec i s = .next t ∧ t.ffilled = true ∧ t.fcur = 0 ∧
      Memory.readRange t.fbuf 0 (payload.length + 5) = .ok (commandFrame s.par (codeValue s.par f) uc payload) ∧
      (∀ j, payload.length + 5 ≤ j → Memory.read t.fbuf j = Memory.read s.fbuf j) ∧
      t.history = s.history ++ List.replicate (payload.length + 4) (.fwd .accept) ++ [.fwd .complete] ∧
      { t with fbuf := s.fbuf, ffilled := s.ffilled, fcur := s.fcur, history := s.history } = s

/-- The frames of GetSpectrum, GetXYZ and Unknown (R95, R96, R190, R195), relayed to an idle framer: the third byte
resets the framer, and the bytes after it are fed to the empty framer. Where none of them is `PREFIX0` they are all
discarded. That a frame row means this feed is the model's reading (log 4). -/
def Obligations.OtherFramesAreDiscarded : Prop :=
  ∀ (s : State) (i : Instr) (f : FunctionCode) (uc : Byte) (payload : List Byte), idleFramer s →
    unrecognisedFrame i = some (f, uc, payload) →
    (∀ b ∈ uc :: payload ++ [checksum8 ([s.par.prefix0, s.par.prefix1, codeValue s.par f, uc] ++ payload)],
      b ≠ s.par.prefix0) →
    ∃ t, exec i s = .next t ∧
      t.history = s.history ++ [.fwd .accept, .fwd .accept, .fwd .resetUnrecognized] ++
        List.replicate (payload.length + 2) (.fwd .dropIdle) ∧
      Memory.readRange t.fbuf 0 3 = .ok [s.par.prefix0, s.par.prefix1, codeValue s.par f] ∧
      (∀ j, 3 ≤ j → Memory.read t.fbuf j = Memory.read s.fbuf j) ∧
      { t with fbuf := s.fbuf, history := s.history } = s

/-- A frame relayed while a frame is filled is lost, byte by byte (R192; a frame row is a feed, log 4). -/
def Obligations.FramesRelayedWhileFilledAreLost : Prop :=
  ∀ (s : State) (i : Instr) (f : FunctionCode) (uc : Byte) (payload : List Byte), s.ffilled = true →
    (dispatchFrame i = some (f, uc, payload) ∨ unrecognisedFrame i = some (f, uc, payload)) →
    exec i s =
      .next { s with history := s.history ++ List.replicate (payload.length + 5) (.fwd .dropBackpressure) }

/-- R202: after a frame start that desynchronises, a frame of a dispatch command that comes later is still recognised
(a frame row is a feed, log 4). -/
def Obligations.FramerResynchronises : Prop :=
  ∀ (s : State) (i : Instr) (f : FunctionCode) (uc x : Byte) (payload : List Byte), idleFramer s →
    x ≠ s.par.prefix1 → dispatchFrame i = some (f, uc, payload) →
    ∃ t, execAll [.fwdByte s.par.prefix0, .fwdByte x, i] s = .next t ∧ t.ffilled = true ∧
      fwdOutcomes t.history = fwdOutcomes s.history ++ [.accept, .resetDesync] ++
        List.replicate (payload.length + 4) .accept ++ [.complete] ∧
      Memory.readRange t.fbuf 0 (payload.length + 5) = .ok (commandFrame s.par (codeValue s.par f) uc payload)

/-- R142, second sentence: a frame relayed to an idle framer, drained, built and transmitted leaves the block byte for
byte (a frame row is a feed, log 4). -/
def Obligations.RelayedFrameIsTransmittedUnchanged : Prop :=
  ∀ (s : State) (i : Instr) (f : FunctionCode) (uc : Byte) (payload : List Byte), idleFramer s →
    dispatchFrame i = some (f, uc, payload) →
    ∃ t, execAll [i, .fwdDrain, .build, .xmit] s = .next t ∧ t.err = 0x00 ∧
      txEvents t.history = txEvents s.history ++ [commandFrame s.par (codeValue s.par f) uc payload]

/-! ### The whole machine -/

/-- The state after power-on meets the invariant (R50, R51, R199). -/
def Obligations.ResetMeetsTheInvariant : Prop := (∀ c : LegalParams, BlockInv (State.resetWith c)) ∧ BlockInv State.reset

/-- R50, R199: every step keeps the invariant. -/
def Obligations.StepKeepsTheInvariant : Prop :=
  ∀ s t : State, BlockInv s → step s = .next t → BlockInv t

/-- Every instruction runs: in a state that meets the invariant, the only reads that can stop the machine are the host's
window reads and `BUILD`'s payload (R49, R240; the model's choice, log 5). -/
def Obligations.EveryInstructionRuns : Prop :=
  ∀ (i : Instr) (s : State), BlockInv s → ReadsWritten s i → ∃ t, exec i s = .next t
end

