-- ==== Sys2Proof/Laws/Memory.lean ====
section
/-! SUPPORT. The laws of a buffer: read after write, and that every write keeps the canonical form. -/

namespace Sys2Proof.Laws

open Sys2Proof.Machine

theorem read_nil (a : Nat) : Memory.read [] a = none := rfl

/-- A write is read back at its index, and every other index reads as before (R13). -/
theorem read_write (m : Memory) (a : Nat) (v : Byte) (i : Nat) :
    Memory.read (Memory.write m a v) i = if i = a then some v else Memory.read m i := by
  induction m with
  | nil => by_cases h : a = i <;> simp [Memory.write, Memory.read, h, eq_comm]
  | cons c rest ih =>
    obtain ⟨b, w⟩ := c
    by_cases hlt : a < b
    · by_cases h : a = i
      · subst h
        simp [Memory.write, Memory.read, hlt]
      · simp [Memory.write, Memory.read, hlt, h, Ne.symm h]
    · by_cases heq : a = b
      · subst heq
        by_cases h : a = i <;> simp [Memory.write, Memory.read, h, eq_comm]
      · by_cases h : b = i
        · subst h
          simp [Memory.write, Memory.read, hlt, heq, Ne.symm heq]
        · simp [Memory.write, Memory.read, hlt, heq, h, ih]

@[simp] theorem read_write_same (m : Memory) (a : Nat) (v : Byte) :
    Memory.read (Memory.write m a v) a = some v := by simp [read_write]

theorem read_write_other (m : Memory) {a i : Nat} (v : Byte) (h : i ≠ a) :
    Memory.read (Memory.write m a v) i = Memory.read m i := by simp [read_write, h]

/-- A sequence write: inside it the sequence's byte, outside it as before (R13). -/
theorem read_writes (vs : List Byte) : ∀ (m : Memory) (a i : Nat),
    Memory.read (Memory.writes m a vs) i =
      if a ≤ i ∧ i < a + vs.length then vs[i - a]? else Memory.read m i := by
  induction vs with
  | nil => intro m a i; have : ¬ (a ≤ i ∧ i < a) := by omega
           simp [Memory.writes, this]
  | cons v vs ih =>
    intro m a i
    rw [Memory.writes, ih, read_write]
    by_cases h1 : a + 1 ≤ i ∧ i < a + 1 + vs.length
    · have h2 : a ≤ i ∧ i < a + (v :: vs).length := by simp only [List.length_cons]; omega
      have h3 : i - a = (i - (a + 1)) + 1 := by omega
      rw [if_pos h1, if_pos h2, h3, List.getElem?_cons_succ]
    · rw [if_neg h1]
      by_cases h4 : i = a
      · subst h4
        have h2 : i ≤ i ∧ i < i + (v :: vs).length := by simp
        rw [if_pos rfl, if_pos h2]; simp
      · have h2 : ¬ (a ≤ i ∧ i < a + (v :: vs).length) := by simp only [List.length_cons]; omega
        rw [if_neg h4, if_neg h2]

/-- Whatever a write adds, its index is the only new one. -/
theorem mem_write {m : Memory} {a : Nat} {v : Byte} {c : Host.Cell} (h : c ∈ Memory.write m a v) :
    c.1 = a ∨ c ∈ m := by
  induction m with
  | nil => simp [Memory.write] at h; simp [h]
  | cons d rest ih =>
    obtain ⟨b, w⟩ := d
    unfold Memory.write at h
    split at h
    · simp only [List.mem_cons] at h ⊢
      rcases h with rfl | h
      · exact .inl rfl
      · exact .inr h
    · split at h
      · simp only [List.mem_cons] at h ⊢
        rcases h with rfl | h
        · exact .inl rfl
        · exact .inr (.inr h)
      · simp only [List.mem_cons] at h ⊢
        rcases h with rfl | h
        · exact .inr (.inl rfl)
        · exact (ih h).imp id .inr

/-- A write keeps the canonical form. -/
theorem write_wf {m : Memory} (h : Memory.wf m) (a : Nat) (v : Byte) : Memory.wf (Memory.write m a v) := by
  induction m with
  | nil => simp [Memory.write]
  | cons d rest ih =>
    obtain ⟨b, w⟩ := d
    have ⟨hb, hr⟩ := List.pairwise_cons.mp h
    unfold Memory.write
    split
    · rename_i hab
      refine List.pairwise_cons.mpr ⟨?_, h⟩
      intro c hc
      rcases List.mem_cons.mp hc with rfl | hc
      · exact hab
      · exact lt_trans hab (hb c hc)
    · split
      · rename_i hab
        subst hab
        exact List.pairwise_cons.mpr ⟨hb, hr⟩
      · rename_i h1 h2
        refine List.pairwise_cons.mpr ⟨?_, ih hr⟩
        intro c hc
        rcases mem_write hc with hc | hc
        · show b < c.1
          omega
        · exact hb c hc

theorem writes_wf (vs : List Byte) : ∀ {m : Memory} (a : Nat), Memory.wf m → Memory.wf (Memory.writes m a vs) := by
  induction vs with
  | nil => intro m a h; exact h
  | cons v vs ih => intro m a h; exact ih (a + 1) (write_wf h a v)

/-- A byte that is read is listed. -/
theorem read_mem {m : Memory} {a : Nat} {v : Byte} (h : Memory.read m a = some v) : (a, v) ∈ m := by
  induction m with
  | nil => simp [Memory.read] at h
  | cons d rest ih =>
    obtain ⟨b, w⟩ := d
    by_cases hab : b = a
    · subst hab
      simp [Memory.read] at h
      simp [h]
    · exact List.mem_cons_of_mem _ (ih (by simpa [Memory.read, hab] using h))

/-- Writing the byte that an index already holds changes nothing. -/
theorem write_same {m : Memory} (h : Memory.wf m) {a : Nat} {v : Byte} (hv : Memory.read m a = some v) :
    Memory.write m a v = m := by
  induction m with
  | nil => simp [Memory.read] at hv
  | cons d rest ih =>
    obtain ⟨b, w⟩ := d
    have ⟨hb, hr⟩ := List.pairwise_cons.mp h
    by_cases hab : b = a
    · subst hab
      simp [Memory.read] at hv
      simp [Memory.write, hv]
    · have hv' : Memory.read rest a = some v := by simpa [Memory.read, hab] using hv
      have hlt : b < a := hb _ (read_mem hv')
      have h1 : ¬ a < b := by omega
      have h2 : ¬ a = b := by omega
      simp [Memory.write, h1, h2, ih hr hv']

/-- An index below every listed one is unwritten. -/
theorem read_none_of_lt {m : Memory} {a : Nat} (h : ∀ c ∈ m, a < c.1) : Memory.read m a = none := by
  induction m with
  | nil => rfl
  | cons d rest ih =>
    obtain ⟨b, w⟩ := d
    have : b ≠ a := by have := h (b, w) (by simp); simp at this; omega
    simp [Memory.read, this, ih (fun c hc => h c (by simp [hc]))]

/-- The sequence that a range read answers: one byte an index, each written. -/
theorem readRange_ok_iff (n : Nat) : ∀ (m : Memory) (a : Nat) (vs : List Byte),
    Memory.readRange m a n = .ok vs ↔ vs.length = n ∧ ∀ k, k < n → Memory.read m (a + k) = vs[k]? := by
  induction n with
  | zero => intro m a vs; cases vs <;> simp [Memory.readRange]
  | succ n ih =>
    intro m a vs
    unfold Memory.readRange
    cases hr : Memory.read m a with
    | none =>
      constructor
      · intro h; simp at h
      · rintro ⟨hl, h⟩
        have := h 0 (by omega)
        cases vs with
        | nil => simp at hl
        | cons v vs => simp [hr] at this
    | some v =>
      cases hq : Memory.readRange m (a + 1) n with
      | error i =>
        constructor
        · intro h; simp at h
        · rintro ⟨hl, h⟩
          cases vs with
          | nil => simp at hl
          | cons w ws =>
            have := (ih m (a + 1) ws).mpr ⟨by simpa using hl, fun k hk => by
              have := h (k + 1) (by omega)
              simpa [Nat.add_assoc, Nat.add_comm 1 k] using this⟩
            simp [hq] at this
      | ok ws =>
        have hws := (ih m (a + 1) ws).mp hq
        constructor
        · intro h
          simp only [Except.ok.injEq] at h
          subst h
          refine ⟨by simp [hws.1], fun k hk => ?_⟩
          cases k with
          | zero => simpa using hr
          | succ k =>
            have := hws.2 k (by omega)
            simpa [Nat.add_assoc, Nat.add_comm 1 k] using this
        · rintro ⟨hl, h⟩
          cases vs with
          | nil => simp at hl
          | cons w us =>
            have h0 := h 0 (by omega)
            simp [hr] at h0
            have := (ih m (a + 1) us).mpr ⟨by simpa using hl, fun k hk => by
              have := h (k + 1) (by omega)
              simpa [Nat.add_assoc, Nat.add_comm 1 k] using this⟩
            rw [hq] at this
            simp only [Except.ok.injEq] at this
            simp [h0, this]

/-- A range read that stops names an unwritten index of the range. -/
theorem readRange_error (n : Nat) : ∀ (m : Memory) (a i : Nat),
    Memory.readRange m a n = .error i → (a ≤ i ∧ i < a + n) ∧ Memory.read m i = none := by
  induction n with
  | zero => intro m a i h; simp [Memory.readRange] at h
  | succ n ih =>
    intro m a i h
    unfold Memory.readRange at h
    cases hr : Memory.read m a with
    | none => simp [hr] at h; subst h; exact ⟨by omega, hr⟩
    | some v =>
      cases hq : Memory.readRange m (a + 1) n with
      | ok ws => simp [hr, hq] at h
      | error j =>
        simp [hr, hq] at h
        subst h
        have := ih m (a + 1) j hq
        exact ⟨by omega, this.2⟩

/-- A range whose every index is written can be read. -/
theorem readRange_of_written {m : Memory} {a n : Nat} (h : ∀ k, k < n → (Memory.read m (a + k)).isSome = true) :
    ∃ vs, Memory.readRange m a n = .ok vs := by
  cases hq : Memory.readRange m a n with
  | ok vs => exact ⟨vs, rfl⟩
  | error i =>
    obtain ⟨⟨h1, h2⟩, h3⟩ := readRange_error n m a i hq
    have := h (i - a) (by omega)
    rw [show a + (i - a) = i by omega, h3] at this
    simp at this

/-- Two buffers in canonical form that read alike are equal: equal buffers are equal data. -/
theorem wf_ext {m m' : Memory} (h : Memory.wf m) (h' : Memory.wf m')
    (heq : ∀ i, Memory.read m i = Memory.read m' i) : m = m' := by
  induction m generalizing m' with
  | nil =>
    cases m' with
    | nil => rfl
    | cons d rest => have := heq d.1; simp [Memory.read] at this
  | cons c rest ih =>
    obtain ⟨a, v⟩ := c
    have ⟨ha, hr⟩ := List.pairwise_cons.mp h
    cases m' with
    | nil => have := heq a; simp [Memory.read] at this
    | cons d rest' =>
      obtain ⟨b, w⟩ := d
      have ⟨hb, hr'⟩ := List.pairwise_cons.mp h'
      have hab : a = b := by
        rcases Nat.lt_trichotomy a b with hlt | heq' | hgt
        · have h1 := heq a
          rw [read_none_of_lt (m := (b, w) :: rest') (a := a)] at h1
          · simp [Memory.read] at h1
          · intro c hc
            rcases List.mem_cons.mp hc with rfl | hc
            · exact hlt
            · exact lt_trans hlt (hb c hc)
        · exact heq'
        · have h1 := heq b
          rw [read_none_of_lt (m := (a, v) :: rest) (a := b)] at h1
          · simp [Memory.read] at h1
          · intro c hc
            rcases List.mem_cons.mp hc with rfl | hc
            · exact hgt
            · exact lt_trans hgt (ha c hc)
      subst hab
      have hv := heq a
      simp [Memory.read] at hv
      subst hv
      rw [ih hr hr' fun i => ?_]
      by_cases hi : a = i
      · subst hi
        rw [read_none_of_lt ha, read_none_of_lt hb]
      · simpa [Memory.read, hi] using heq i

/-- Two range reads of buffers that read alike in the range are the same. -/
theorem readRange_congr {m m' : Memory} (n : Nat) : ∀ (a : Nat),
    (∀ k, k < n → Memory.read m (a + k) = Memory.read m' (a + k)) →
      Memory.readRange m a n = Memory.readRange m' a n := by
  induction n with
  | zero => intro a _; rfl
  | succ n ih =>
    intro a h
    have h0 := h 0 (by omega)
    have hs := ih (a + 1) fun k hk => by
      have := h (k + 1) (by omega)
      simpa [Nat.add_assoc, Nat.add_comm 1 k] using this
    simp only [Nat.add_zero] at h0
    simp only [Memory.readRange, h0, hs]

/-- Reading back a sequence just written. -/
theorem readRange_writes (m : Memory) (a : Nat) (vs : List Byte) :
    Memory.readRange (Memory.writes m a vs) a vs.length = .ok vs := by
  rw [readRange_ok_iff]
  refine ⟨rfl, fun k hk => ?_⟩
  rw [read_writes, if_pos ⟨by omega, by omega⟩]
  congr 1
  omega

end Sys2Proof.Laws
end

