-- ==== Sys2Proof/Laws/State.lean ====
section
/-! SUPPORT. What each named update of the state leaves in each field: one lemma a field. -/

namespace Sys2Proof.Laws

open Sys2Proof.Machine

/-! `State.report` writes `ERR` only (R223). -/

@[simp] theorem report_argFc (s : State) (e : ErrorKind) : (s.report e).argFc = s.argFc := rfl
@[simp] theorem report_argUc (s : State) (e : ErrorKind) : (s.report e).argUc = s.argUc := rfl
@[simp] theorem report_argL (s : State) (e : ErrorKind) : (s.report e).argL = s.argL := rfl
@[simp] theorem report_argR (s : State) (e : ErrorKind) : (s.report e).argR = s.argR := rfl
@[simp] theorem report_argFlags (s : State) (e : ErrorKind) : (s.report e).argFlags = s.argFlags := rfl
@[simp] theorem report_argIt (s : State) (e : ErrorKind) : (s.report e).argIt = s.argIt := rfl
@[simp] theorem report_argAvg (s : State) (e : ErrorKind) : (s.report e).argAvg = s.argAvg := rfl
@[simp] theorem report_argAe (s : State) (e : ErrorKind) : (s.report e).argAe = s.argAe := rfl
@[simp] theorem report_err (s : State) (e : ErrorKind) : (s.report e).err = errorCode e := rfl
@[simp] theorem report_fcur (s : State) (e : ErrorKind) : (s.report e).fcur = s.fcur := rfl
@[simp] theorem report_ffilled (s : State) (e : ErrorKind) : (s.report e).ffilled = s.ffilled := rfl
@[simp] theorem report_rdyFlag (s : State) (e : ErrorKind) : (s.report e).rdyFlag = s.rdyFlag := rfl
@[simp] theorem report_ok (s : State) (e : ErrorKind) : (s.report e).ok = s.ok := rfl
@[simp] theorem report_fetchDue (s : State) (e : ErrorKind) : (s.report e).fetchDue = s.fetchDue := rfl
@[simp] theorem report_drained (s : State) (e : ErrorKind) : (s.report e).drained = s.drained := rfl
@[simp] theorem report_asyncFc (s : State) (e : ErrorKind) : (s.report e).asyncFc = s.asyncFc := rfl
@[simp] theorem report_lastFc (s : State) (e : ErrorKind) : (s.report e).lastFc = s.lastFc := rfl
@[simp] theorem report_lastUc (s : State) (e : ErrorKind) : (s.report e).lastUc = s.lastUc := rfl
@[simp] theorem report_lastL (s : State) (e : ErrorKind) : (s.report e).lastL = s.lastL := rfl
@[simp] theorem report_retSize (s : State) (e : ErrorKind) : (s.report e).retSize = s.retSize := rfl
@[simp] theorem report_rxCnt (s : State) (e : ErrorKind) : (s.report e).rxCnt = s.rxCnt := rfl
@[simp] theorem report_csAcc (s : State) (e : ErrorKind) : (s.report e).csAcc = s.csAcc := rfl
@[simp] theorem report_cmd (s : State) (e : ErrorKind) : (s.report e).cmd = s.cmd := rfl
@[simp] theorem report_bak (s : State) (e : ErrorKind) : (s.report e).bak = s.bak := rfl
@[simp] theorem report_fbuf (s : State) (e : ErrorKind) : (s.report e).fbuf = s.fbuf := rfl
@[simp] theorem report_ret (s : State) (e : ErrorKind) : (s.report e).ret = s.ret := rfl
@[simp] theorem report_cfg (s : State) (e : ErrorKind) : (s.report e).cfg = s.cfg := rfl
@[simp] theorem report_history (s : State) (e : ErrorKind) : (s.report e).history = s.history := rfl
@[simp] theorem report_freeCtr (s : State) (e : ErrorKind) : (s.report e).freeCtr = s.freeCtr := rfl
@[simp] theorem report_pending (s : State) (e : ErrorKind) : (s.report e).pending = s.pending := rfl
@[simp] theorem report_par (s : State) (e : ErrorKind) : (s.report e).par = s.par := rfl

/-! `State.emit` appends to the history only. -/

@[simp] theorem emit_argFc (s : State) (e : Event) : (s.emit e).argFc = s.argFc := rfl
@[simp] theorem emit_argUc (s : State) (e : Event) : (s.emit e).argUc = s.argUc := rfl
@[simp] theorem emit_argL (s : State) (e : Event) : (s.emit e).argL = s.argL := rfl
@[simp] theorem emit_argR (s : State) (e : Event) : (s.emit e).argR = s.argR := rfl
@[simp] theorem emit_argFlags (s : State) (e : Event) : (s.emit e).argFlags = s.argFlags := rfl
@[simp] theorem emit_argIt (s : State) (e : Event) : (s.emit e).argIt = s.argIt := rfl
@[simp] theorem emit_argAvg (s : State) (e : Event) : (s.emit e).argAvg = s.argAvg := rfl
@[simp] theorem emit_argAe (s : State) (e : Event) : (s.emit e).argAe = s.argAe := rfl
@[simp] theorem emit_err (s : State) (e : Event) : (s.emit e).err = s.err := rfl
@[simp] theorem emit_fcur (s : State) (e : Event) : (s.emit e).fcur = s.fcur := rfl
@[simp] theorem emit_ffilled (s : State) (e : Event) : (s.emit e).ffilled = s.ffilled := rfl
@[simp] theorem emit_rdyFlag (s : State) (e : Event) : (s.emit e).rdyFlag = s.rdyFlag := rfl
@[simp] theorem emit_ok (s : State) (e : Event) : (s.emit e).ok = s.ok := rfl
@[simp] theorem emit_fetchDue (s : State) (e : Event) : (s.emit e).fetchDue = s.fetchDue := rfl
@[simp] theorem emit_drained (s : State) (e : Event) : (s.emit e).drained = s.drained := rfl
@[simp] theorem emit_asyncFc (s : State) (e : Event) : (s.emit e).asyncFc = s.asyncFc := rfl
@[simp] theorem emit_lastFc (s : State) (e : Event) : (s.emit e).lastFc = s.lastFc := rfl
@[simp] theorem emit_lastUc (s : State) (e : Event) : (s.emit e).lastUc = s.lastUc := rfl
@[simp] theorem emit_lastL (s : State) (e : Event) : (s.emit e).lastL = s.lastL := rfl
@[simp] theorem emit_retSize (s : State) (e : Event) : (s.emit e).retSize = s.retSize := rfl
@[simp] theorem emit_rxCnt (s : State) (e : Event) : (s.emit e).rxCnt = s.rxCnt := rfl
@[simp] theorem emit_csAcc (s : State) (e : Event) : (s.emit e).csAcc = s.csAcc := rfl
@[simp] theorem emit_cmd (s : State) (e : Event) : (s.emit e).cmd = s.cmd := rfl
@[simp] theorem emit_bak (s : State) (e : Event) : (s.emit e).bak = s.bak := rfl
@[simp] theorem emit_fbuf (s : State) (e : Event) : (s.emit e).fbuf = s.fbuf := rfl
@[simp] theorem emit_ret (s : State) (e : Event) : (s.emit e).ret = s.ret := rfl
@[simp] theorem emit_cfg (s : State) (e : Event) : (s.emit e).cfg = s.cfg := rfl
@[simp] theorem emit_history (s : State) (e : Event) : (s.emit e).history = s.history ++ [e] := rfl
@[simp] theorem emit_freeCtr (s : State) (e : Event) : (s.emit e).freeCtr = s.freeCtr := rfl
@[simp] theorem emit_pending (s : State) (e : Event) : (s.emit e).pending = s.pending := rfl
@[simp] theorem emit_par (s : State) (e : Event) : (s.emit e).par = s.par := rfl

/-! `State.failExchange` writes `ERR`, `OK` and `RET_SIZE` only (R152). -/

@[simp] theorem failExchange_argFc (s : State) (e : ErrorKind) : (s.failExchange e).argFc = s.argFc := rfl
@[simp] theorem failExchange_argUc (s : State) (e : ErrorKind) : (s.failExchange e).argUc = s.argUc := rfl
@[simp] theorem failExchange_argL (s : State) (e : ErrorKind) : (s.failExchange e).argL = s.argL := rfl
@[simp] theorem failExchange_argR (s : State) (e : ErrorKind) : (s.failExchange e).argR = s.argR := rfl
@[simp] theorem failExchange_argFlags (s : State) (e : ErrorKind) : (s.failExchange e).argFlags = s.argFlags := rfl
@[simp] theorem failExchange_argIt (s : State) (e : ErrorKind) : (s.failExchange e).argIt = s.argIt := rfl
@[simp] theorem failExchange_argAvg (s : State) (e : ErrorKind) : (s.failExchange e).argAvg = s.argAvg := rfl
@[simp] theorem failExchange_argAe (s : State) (e : ErrorKind) : (s.failExchange e).argAe = s.argAe := rfl
@[simp] theorem failExchange_err (s : State) (e : ErrorKind) : (s.failExchange e).err = errorCode e := rfl
@[simp] theorem failExchange_fcur (s : State) (e : ErrorKind) : (s.failExchange e).fcur = s.fcur := rfl
@[simp] theorem failExchange_ffilled (s : State) (e : ErrorKind) : (s.failExchange e).ffilled = s.ffilled := rfl
@[simp] theorem failExchange_rdyFlag (s : State) (e : ErrorKind) : (s.failExchange e).rdyFlag = s.rdyFlag := rfl
@[simp] theorem failExchange_ok (s : State) (e : ErrorKind) : (s.failExchange e).ok = false := rfl
@[simp] theorem failExchange_fetchDue (s : State) (e : ErrorKind) : (s.failExchange e).fetchDue = s.fetchDue := rfl
@[simp] theorem failExchange_drained (s : State) (e : ErrorKind) : (s.failExchange e).drained = s.drained := rfl
@[simp] theorem failExchange_asyncFc (s : State) (e : ErrorKind) : (s.failExchange e).asyncFc = s.asyncFc := rfl
@[simp] theorem failExchange_lastFc (s : State) (e : ErrorKind) : (s.failExchange e).lastFc = s.lastFc := rfl
@[simp] theorem failExchange_lastUc (s : State) (e : ErrorKind) : (s.failExchange e).lastUc = s.lastUc := rfl
@[simp] theorem failExchange_lastL (s : State) (e : ErrorKind) : (s.failExchange e).lastL = s.lastL := rfl
@[simp] theorem failExchange_retSize (s : State) (e : ErrorKind) : (s.failExchange e).retSize = 0 := rfl
@[simp] theorem failExchange_rxCnt (s : State) (e : ErrorKind) : (s.failExchange e).rxCnt = s.rxCnt := rfl
@[simp] theorem failExchange_csAcc (s : State) (e : ErrorKind) : (s.failExchange e).csAcc = s.csAcc := rfl
@[simp] theorem failExchange_cmd (s : State) (e : ErrorKind) : (s.failExchange e).cmd = s.cmd := rfl
@[simp] theorem failExchange_bak (s : State) (e : ErrorKind) : (s.failExchange e).bak = s.bak := rfl
@[simp] theorem failExchange_fbuf (s : State) (e : ErrorKind) : (s.failExchange e).fbuf = s.fbuf := rfl
@[simp] theorem failExchange_ret (s : State) (e : ErrorKind) : (s.failExchange e).ret = s.ret := rfl
@[simp] theorem failExchange_cfg (s : State) (e : ErrorKind) : (s.failExchange e).cfg = s.cfg := rfl
@[simp] theorem failExchange_history (s : State) (e : ErrorKind) : (s.failExchange e).history = s.history := rfl
@[simp] theorem failExchange_freeCtr (s : State) (e : ErrorKind) : (s.failExchange e).freeCtr = s.freeCtr := rfl
@[simp] theorem failExchange_pending (s : State) (e : ErrorKind) : (s.failExchange e).pending = s.pending := rfl
@[simp] theorem failExchange_par (s : State) (e : ErrorKind) : (s.failExchange e).par = s.par := rfl

/-! `State.withPending` writes the schedule only. -/

@[simp] theorem withPending_argFc (s : State) (ts : List Transaction) : (s.withPending ts).argFc = s.argFc := rfl
@[simp] theorem withPending_argUc (s : State) (ts : List Transaction) : (s.withPending ts).argUc = s.argUc := rfl
@[simp] theorem withPending_argL (s : State) (ts : List Transaction) : (s.withPending ts).argL = s.argL := rfl
@[simp] theorem withPending_argR (s : State) (ts : List Transaction) : (s.withPending ts).argR = s.argR := rfl
@[simp] theorem withPending_argFlags (s : State) (ts : List Transaction) : (s.withPending ts).argFlags = s.argFlags := rfl
@[simp] theorem withPending_argIt (s : State) (ts : List Transaction) : (s.withPending ts).argIt = s.argIt := rfl
@[simp] theorem withPending_argAvg (s : State) (ts : List Transaction) : (s.withPending ts).argAvg = s.argAvg := rfl
@[simp] theorem withPending_argAe (s : State) (ts : List Transaction) : (s.withPending ts).argAe = s.argAe := rfl
@[simp] theorem withPending_err (s : State) (ts : List Transaction) : (s.withPending ts).err = s.err := rfl
@[simp] theorem withPending_fcur (s : State) (ts : List Transaction) : (s.withPending ts).fcur = s.fcur := rfl
@[simp] theorem withPending_ffilled (s : State) (ts : List Transaction) : (s.withPending ts).ffilled = s.ffilled := rfl
@[simp] theorem withPending_rdyFlag (s : State) (ts : List Transaction) : (s.withPending ts).rdyFlag = s.rdyFlag := rfl
@[simp] theorem withPending_ok (s : State) (ts : List Transaction) : (s.withPending ts).ok = s.ok := rfl
@[simp] theorem withPending_fetchDue (s : State) (ts : List Transaction) : (s.withPending ts).fetchDue = s.fetchDue := rfl
@[simp] theorem withPending_drained (s : State) (ts : List Transaction) : (s.withPending ts).drained = s.drained := rfl
@[simp] theorem withPending_asyncFc (s : State) (ts : List Transaction) : (s.withPending ts).asyncFc = s.asyncFc := rfl
@[simp] theorem withPending_lastFc (s : State) (ts : List Transaction) : (s.withPending ts).lastFc = s.lastFc := rfl
@[simp] theorem withPending_lastUc (s : State) (ts : List Transaction) : (s.withPending ts).lastUc = s.lastUc := rfl
@[simp] theorem withPending_lastL (s : State) (ts : List Transaction) : (s.withPending ts).lastL = s.lastL := rfl
@[simp] theorem withPending_retSize (s : State) (ts : List Transaction) : (s.withPending ts).retSize = s.retSize := rfl
@[simp] theorem withPending_rxCnt (s : State) (ts : List Transaction) : (s.withPending ts).rxCnt = s.rxCnt := rfl
@[simp] theorem withPending_csAcc (s : State) (ts : List Transaction) : (s.withPending ts).csAcc = s.csAcc := rfl
@[simp] theorem withPending_cmd (s : State) (ts : List Transaction) : (s.withPending ts).cmd = s.cmd := rfl
@[simp] theorem withPending_bak (s : State) (ts : List Transaction) : (s.withPending ts).bak = s.bak := rfl
@[simp] theorem withPending_fbuf (s : State) (ts : List Transaction) : (s.withPending ts).fbuf = s.fbuf := rfl
@[simp] theorem withPending_ret (s : State) (ts : List Transaction) : (s.withPending ts).ret = s.ret := rfl
@[simp] theorem withPending_cfg (s : State) (ts : List Transaction) : (s.withPending ts).cfg = s.cfg := rfl
@[simp] theorem withPending_history (s : State) (ts : List Transaction) : (s.withPending ts).history = s.history := rfl
@[simp] theorem withPending_freeCtr (s : State) (ts : List Transaction) : (s.withPending ts).freeCtr = s.freeCtr := rfl
@[simp] theorem withPending_pending (s : State) (ts : List Transaction) : (s.withPending ts).pending = ts := rfl
@[simp] theorem withPending_par (s : State) (ts : List Transaction) : (s.withPending ts).par = s.par := rfl

/-! `resetFramer` writes `FCUR` and the history only. -/

@[simp] theorem resetFramer_argFc (s : State) (o : FwdOutcome) : (resetFramer s o).argFc = s.argFc := rfl
@[simp] theorem resetFramer_argUc (s : State) (o : FwdOutcome) : (resetFramer s o).argUc = s.argUc := rfl
@[simp] theorem resetFramer_argL (s : State) (o : FwdOutcome) : (resetFramer s o).argL = s.argL := rfl
@[simp] theorem resetFramer_argR (s : State) (o : FwdOutcome) : (resetFramer s o).argR = s.argR := rfl
@[simp] theorem resetFramer_argFlags (s : State) (o : FwdOutcome) : (resetFramer s o).argFlags = s.argFlags := rfl
@[simp] theorem resetFramer_argIt (s : State) (o : FwdOutcome) : (resetFramer s o).argIt = s.argIt := rfl
@[simp] theorem resetFramer_argAvg (s : State) (o : FwdOutcome) : (resetFramer s o).argAvg = s.argAvg := rfl
@[simp] theorem resetFramer_argAe (s : State) (o : FwdOutcome) : (resetFramer s o).argAe = s.argAe := rfl
@[simp] theorem resetFramer_err (s : State) (o : FwdOutcome) : (resetFramer s o).err = s.err := rfl
@[simp] theorem resetFramer_fcur (s : State) (o : FwdOutcome) : (resetFramer s o).fcur = 0 := rfl
@[simp] theorem resetFramer_ffilled (s : State) (o : FwdOutcome) : (resetFramer s o).ffilled = s.ffilled := rfl
@[simp] theorem resetFramer_rdyFlag (s : State) (o : FwdOutcome) : (resetFramer s o).rdyFlag = s.rdyFlag := rfl
@[simp] theorem resetFramer_ok (s : State) (o : FwdOutcome) : (resetFramer s o).ok = s.ok := rfl
@[simp] theorem resetFramer_fetchDue (s : State) (o : FwdOutcome) : (resetFramer s o).fetchDue = s.fetchDue := rfl
@[simp] theorem resetFramer_drained (s : State) (o : FwdOutcome) : (resetFramer s o).drained = s.drained := rfl
@[simp] theorem resetFramer_asyncFc (s : State) (o : FwdOutcome) : (resetFramer s o).asyncFc = s.asyncFc := rfl
@[simp] theorem resetFramer_lastFc (s : State) (o : FwdOutcome) : (resetFramer s o).lastFc = s.lastFc := rfl
@[simp] theorem resetFramer_lastUc (s : State) (o : FwdOutcome) : (resetFramer s o).lastUc = s.lastUc := rfl
@[simp] theorem resetFramer_lastL (s : State) (o : FwdOutcome) : (resetFramer s o).lastL = s.lastL := rfl
@[simp] theorem resetFramer_retSize (s : State) (o : FwdOutcome) : (resetFramer s o).retSize = s.retSize := rfl
@[simp] theorem resetFramer_rxCnt (s : State) (o : FwdOutcome) : (resetFramer s o).rxCnt = s.rxCnt := rfl
@[simp] theorem resetFramer_csAcc (s : State) (o : FwdOutcome) : (resetFramer s o).csAcc = s.csAcc := rfl
@[simp] theorem resetFramer_cmd (s : State) (o : FwdOutcome) : (resetFramer s o).cmd = s.cmd := rfl
@[simp] theorem resetFramer_bak (s : State) (o : FwdOutcome) : (resetFramer s o).bak = s.bak := rfl
@[simp] theorem resetFramer_fbuf (s : State) (o : FwdOutcome) : (resetFramer s o).fbuf = s.fbuf := rfl
@[simp] theorem resetFramer_ret (s : State) (o : FwdOutcome) : (resetFramer s o).ret = s.ret := rfl
@[simp] theorem resetFramer_cfg (s : State) (o : FwdOutcome) : (resetFramer s o).cfg = s.cfg := rfl
@[simp] theorem resetFramer_history (s : State) (o : FwdOutcome) : (resetFramer s o).history = s.history ++ [.fwd o] := rfl
@[simp] theorem resetFramer_freeCtr (s : State) (o : FwdOutcome) : (resetFramer s o).freeCtr = s.freeCtr := rfl
@[simp] theorem resetFramer_pending (s : State) (o : FwdOutcome) : (resetFramer s o).pending = s.pending := rfl
@[simp] theorem resetFramer_par (s : State) (o : FwdOutcome) : (resetFramer s o).par = s.par := rfl

end Sys2Proof.Laws
end

