-- ==== Sys2Proof/Laws/Ops.lean ====
section
/-! SUPPORT. What each shared operation can do, said once. -/

namespace Sys2Proof.Laws

open Sys2Proof.Machine Sys2Proof.Safety

/-! Parameters: what R10 gives. -/

theorem codes_nodup (c : LegalParams) : c.params.functionCodes.Nodup := (of_decide_eq_true c.legal).1

theorem cmdCap_ge (c : LegalParams) : 10 ≤ c.params.cmdCap := (of_decide_eq_true c.legal).2.1.1

theorem cmdCap_le (c : LegalParams) : c.params.cmdCap ≤ 255 := (of_decide_eq_true c.legal).2.1.2

theorem retCap_ge (c : LegalParams) : 5 ≤ c.params.retCap := (of_decide_eq_true c.legal).2.2.1.1

theorem retCap_le (c : LegalParams) : c.params.retCap ≤ 1024 := (of_decide_eq_true c.legal).2.2.1.2

theorem rStandby_ge (c : LegalParams) : 5 ≤ c.params.rStandby := (of_decide_eq_true c.legal).2.2.2.1

theorem rStandby_le (c : LegalParams) : c.params.rStandby ≤ c.params.retCap := (of_decide_eq_true c.legal).2.2.2.2

/-! The same, said of a state's parameters. -/

theorem par_cmdCap_ge (s : State) : 10 ≤ s.par.cmdCap := cmdCap_ge s.cfg

theorem par_cmdCap_le (s : State) : s.par.cmdCap ≤ 255 := cmdCap_le s.cfg

theorem par_retCap_ge (s : State) : 5 ≤ s.par.retCap := retCap_ge s.cfg

theorem par_retCap_le (s : State) : s.par.retCap ≤ 1024 := retCap_le s.cfg

theorem par_rStandby_ge (s : State) : 5 ≤ s.par.rStandby := rStandby_ge s.cfg

theorem par_rStandby_le (s : State) : s.par.rStandby ≤ s.par.retCap := rStandby_le s.cfg

/-- A frame length is 5 or 10 (R190). -/
theorem fwdLen_eq {p : Params} {fc : Byte} {n : Nat} (h : fwdLen p fc = some n) : n = 5 ∨ n = 10 := by
  unfold fwdLen at h
  split at h
  · exact .inl (Option.some.inj h).symm
  · split at h
    · exact .inr (Option.some.inj h).symm
    · cases h

/-! Bytes. -/

theorem sum8_append (xs ys : List Byte) : sum8 (xs ++ ys) = sum8 xs + sum8 ys := by
  induction xs with
  | nil => simp [sum8]
  | cons x xs ih => simp [sum8, ih, BitVec.add_assoc]

@[simp] theorem pair_hi_lo (h : Half) : pairBytes (hiByte h) (loByte h) = h := by
  unfold pairBytes hiByte loByte
  ext i hi
  simp only [BitVec.getElem_append, BitVec.getElem_setWidth, BitVec.getLsbD_ushiftRight]
  split
  · simp_all
  · rw [show 8 + (i - 8) = i by omega, BitVec.getLsbD_eq_getElem]

@[simp] theorem lo_pair (hi lo : Byte) : loByte (pairBytes hi lo) = lo := by
  unfold pairBytes loByte
  exact BitVec.setWidth_append_eq_right

@[simp] theorem hi_pair (hi lo : Byte) : hiByte (pairBytes hi lo) = hi := by
  unfold pairBytes hiByte
  ext i h
  rw [BitVec.getElem_setWidth, BitVec.getLsbD_ushiftRight, BitVec.getLsbD_append, if_neg (by omega),
    Nat.add_sub_cancel_left, BitVec.getLsbD_eq_getElem]

/-! Reads that may stop (R49). -/

theorem withByte_of_read {b : Buffer} {m : Memory} {a : Nat} {v : Byte} (h : Memory.read m a = some v)
    (k : Byte → Host.Outcome State Fault Refusal) : withByte b m a k = k v := by simp [withByte, h]

theorem withBytes_of_readRange {b : Buffer} {m : Memory} {a n : Nat} {vs : List Byte}
    (h : Memory.readRange m a n = .ok vs) (k : List Byte → Host.Outcome State Fault Refusal) :
    withBytes b m a n k = k vs := by simp [withBytes, h]

theorem withByte_next {b : Buffer} {m : Memory} {a : Nat} {k : Byte → Host.Outcome State Fault Refusal} {t : State}
    (h : withByte b m a k = .next t) : ∃ v, Memory.read m a = some v ∧ k v = .next t := by
  unfold withByte at h
  split at h
  · cases h
  · exact ⟨_, by assumption, h⟩

theorem withBytes_next {b : Buffer} {m : Memory} {a n : Nat} {k : List Byte → Host.Outcome State Fault Refusal}
    {t : State} (h : withBytes b m a n k = .next t) : ∃ vs, Memory.readRange m a n = .ok vs ∧ k vs = .next t := by
  unfold withBytes at h
  split at h
  · cases h
  · exact ⟨_, by assumption, h⟩

/-! The framer. -/

/-- Everything that a fed byte can do when it answers a next state (R191 to R197). -/
theorem framerByte_next {b : Byte} {s t : State} (h : framerByte b s = .next t) :
    (s.ffilled = true ∧ t = s.emit (.fwd .dropBackpressure)) ∨
    (s.ffilled = false ∧ s.fcur = 0 ∧ b ≠ s.par.prefix0 ∧ t = s.emit (.fwd .dropIdle)) ∨
    (s.ffilled = false ∧ s.fcur = 0 ∧ b = s.par.prefix0 ∧
      t = { s with fbuf := Memory.write s.fbuf 0 b, fcur := 1 }.emit (.fwd .accept)) ∨
    (s.ffilled = false ∧ s.fcur ≠ 0 ∧ s.par.cmdCap ≤ s.fcur.toNat ∧ t = s.emit (.fwd .dropFull)) ∨
    (s.ffilled = false ∧ s.fcur ≠ 0 ∧ s.fcur.toNat < s.par.cmdCap ∧
      ∃ second, Memory.read (appendByte b s).fbuf 1 = some second ∧
        ((second ≠ s.par.prefix1 ∧ t = resetFramer (appendByte b s) .resetDesync) ∨
         (second = s.par.prefix1 ∧ (s.fcur + 1).toNat < 3 ∧ t = (appendByte b s).emit (.fwd .accept)) ∨
         (second = s.par.prefix1 ∧ 3 ≤ (s.fcur + 1).toNat ∧
           ∃ fc, Memory.read (appendByte b s).fbuf 2 = some fc ∧
             ((fwdLen s.par fc = none ∧ t = resetFramer (appendByte b s) .resetUnrecognized) ∨
              ∃ n, fwdLen s.par fc = some n ∧
                (((s.fcur + 1).toNat ≠ n ∧ t = (appendByte b s).emit (.fwd .accept)) ∨
                 ((s.fcur + 1).toNat = n ∧ ∃ frame, Memory.readRange (appendByte b s).fbuf 0 n = .ok frame ∧
                   ((sum8 frame = 0 ∧ t = fillFramer (appendByte b s)) ∨
                    (sum8 frame ≠ 0 ∧ t = resetFramer (appendByte b s) .resetChecksum)))))))) := by
  unfold framerByte at h
  split at h
  · rename_i hf
    exact .inl ⟨hf, by cases h; rfl⟩
  rename_i hf
  have hf : s.ffilled = false := by simpa using hf
  refine .inr ?_
  split at h
  · rename_i hc
    unfold idleByte at h
    split at h
    · rename_i hb
      exact .inl ⟨hf, hc, hb, by cases h; rfl⟩
    · rename_i hb
      exact .inr (.inl ⟨hf, hc, by simpa using hb, by cases h; rfl⟩)
  rename_i hc
  refine .inr (.inr ?_)
  split at h
  · rename_i hcap
    exact .inl ⟨hf, hc, hcap, by cases h; rfl⟩
  rename_i hcap
  refine .inr ⟨hf, hc, by omega, ?_⟩
  unfold framedByte checkFrame at h
  obtain ⟨second, hsec, h⟩ := withByte_next h
  refine ⟨second, hsec, ?_⟩
  split at h
  · rename_i hne
    exact .inl ⟨hne, by cases h; rfl⟩
  rename_i hne
  have hne : second = s.par.prefix1 := not_not.mp hne
  refine .inr ?_
  split at h
  · rename_i hlt
    exact .inl ⟨hne, hlt, by cases h; rfl⟩
  rename_i hlt
  obtain ⟨fc, hfc, h⟩ := withByte_next h
  refine .inr ⟨hne, not_lt.mp hlt, fc, hfc, ?_⟩
  split at h
  · rename_i hnone
    exact .inl ⟨hnone, by cases h; rfl⟩
  rename_i n hsome
  refine .inr ⟨n, hsome, ?_⟩
  split at h
  · rename_i hn
    unfold completeFrame at h
    obtain ⟨frame, hfr, h⟩ := withBytes_next h
    refine .inr ⟨hn, frame, hfr, ?_⟩
    split at h
    · rename_i hz
      exact .inl ⟨hz, by cases h; rfl⟩
    · rename_i hz
      exact .inr ⟨hz, by cases h; rfl⟩
  · rename_i hn
    exact .inl ⟨hn, by cases h; rfl⟩

/-- Feeding two sequences is feeding one after the other. -/
theorem feedBytes_append (xs ys : List Byte) : ∀ s : State,
    feedBytes (xs ++ ys) s = match feedBytes xs s with
      | .next t => feedBytes ys t
      | .fault r => .fault r
      | .refused r => .refused r := by
  induction xs with
  | nil => intro s; rfl
  | cons x xs ih =>
    intro s
    simp only [List.cons_append, feedBytes]
    cases framerByte x s with
    | next t => exact ih t
    | fault r => rfl
    | refused r => rfl

/-- A property that every fed byte keeps is kept by a sequence. -/
theorem feedBytes_keeps {P : State → State → Prop} (hrefl : ∀ s, P s s)
    (htrans : ∀ s t u, P s t → P t u → P s u) (hstep : ∀ b s t, framerByte b s = .next t → P s t)
    (bs : List Byte) : ∀ {s t : State}, feedBytes bs s = .next t → P s t := by
  induction bs with
  | nil => intro s t h; cases h; exact hrefl s
  | cons b bs ih =>
    intro s t h
    simp only [feedBytes] at h
    cases hb : framerByte b s with
    | next u => rw [hb] at h; exact htrans s u t (hstep b s u hb) (ih h)
    | fault r => rw [hb] at h; cases h
    | refused r => rw [hb] at h; cases h

/-- Running two lists of instructions is running one after the other. -/
theorem execAll_append (is js : List Instr) : ∀ s : State,
    execAll (is ++ js) s = match execAll is s with
      | .next t => execAll js t
      | .fault r => .fault r
      | .refused r => .refused r := by
  induction is with
  | nil => intro s; rfl
  | cons i is ih =>
    intro s
    simp only [List.cons_append, execAll]
    cases exec i s with
    | next t => exact ih t
    | fault r => rfl
    | refused r => rfl

/-- What follows an outcome answers only where the outcome answers. -/
theorem afterNext_next {α β : Type} {o : Host.Outcome α Fault Refusal} {k : α → Host.Outcome β Fault Refusal} {b : β}
    (h : afterNext o k = .next b) : ∃ a, o = .next a ∧ k a = .next b := by
  cases o with
  | next a => exact ⟨a, rfl, h⟩
  | fault r => cases h
  | refused r => cases h

@[simp] theorem afterNext_of_next {α β : Type} (a : α) (k : α → Host.Outcome β Fault Refusal) :
    afterNext (.next a) k = k a := rfl

/-- Running two lists of host lines is running one after the other. -/
theorem runLines_append (xs ys : List Transaction) : ∀ s : State,
    runLines (xs ++ ys) s = afterNext (runLines xs s) (runLines ys) := by
  induction xs with
  | nil => intro s; rfl
  | cons x xs ih =>
    intro s
    simp only [List.cons_append, runLines]
    cases decode s.par x with
    | error why => rfl
    | ok i =>
      change afterNext (exec i s) _ = afterNext (afterNext (exec i s) _) _
      cases exec i s with
      | next t => exact ih t
      | fault r => rfl
      | refused r => rfl

/-- A line that decodes is its instruction, and the other lines go on from there. -/
theorem runLines_cons {x : Transaction} {xs : List Transaction} {i : Instr} {s : State} (h : decode s.par x = .ok i) :
    runLines (x :: xs) s = afterNext (exec i s) (runLines xs) := by
  simp only [runLines, h]

/-- A line that decodes is its instruction. -/
theorem runLines_singleton {x : Transaction} {i : Instr} {s : State} (h : decode s.par x = .ok i) :
    runLines [x] s = exec i s := by
  simp only [runLines, h]
  cases exec i s <;> rfl

/-! Offsets (R62). -/

/-- Each register stands at its offset. -/
theorem locate_regOffset (p : Params) (r : Reg) : locate p (regOffset r) = .reg r := by cases r <;> rfl

end Sys2Proof.Laws
end

