-- ==== Sys2Proof/Laws/PerInstr.lean ====
section
/-! SUPPORT. A family of facts about each instruction as syntax: which agent its encoding belongs to (00_scope.md R8,
30_encoding.md R102). -/

namespace Sys2Proof.Laws

/-- The agents of R8. -/
inductive Agent where
  | host
  | transport
  | readySource
  deriving DecidableEq, Repr

/-- Whose step a transaction is. A relayed frame is a run of host writes (R103(c)). -/
def agentOfTransaction : Transaction → Agent
  | .hostWrite _ _ | .hostRead _ | .relay _ => .host
  | .rx _ => .transport
  | .readyEdge _ => .readySource

/-- Whose step an instruction is: the transport's `RX_BYTE`, the ready source's `RDY_EDGE`, else the host's. -/
def agentOf : Instr → Agent
  | .rxByte _ => .transport
  | .rdyEdge _ => .readySource
  | _ => .host

namespace EncodedAgent

/-- An instruction's encoding is a step of its agent. -/
def Statement (i : Instr) : Prop := ∀ p : Params, agentOfTransaction (encode p i) = agentOf i

theorem nop : Statement .nop := fun _ => rfl

theorem init : Statement .init := fun _ => rfl

theorem build : Statement .build := fun _ => rfl

theorem payloadAcq : Statement .payloadAcq := fun _ => rfl

theorem xmit : Statement .xmit := fun _ => rfl

theorem validate : Statement .validate := fun _ => rfl

theorem restore : Statement .restore := fun _ => rfl

theorem synthStandby : Statement .synthStandby := fun _ => rfl

theorem retClr : Statement .retClr := fun _ => rfl

theorem rdyClr : Statement .rdyClr := fun _ => rfl

theorem poll : Statement .poll := fun _ => rfl

theorem fwdDrain : Statement .fwdDrain := fun _ => rfl

theorem csClr : Statement .csClr := fun _ => rfl

theorem reservedOp (code : Byte) : Statement (.reservedOp code) := fun _ => rfl

theorem fwdByte (b : Byte) : Statement (.fwdByte b) := fun _ => rfl

theorem csAdd (b : Byte) : Statement (.csAdd b) := fun _ => rfl

theorem regRead (off : Half) : Statement (.regRead off) := fun _ => rfl

theorem regWrite (off : Half) (v : Byte) : Statement (.regWrite off v) := fun _ => rfl

theorem rxByte (b : Byte) : Statement (.rxByte b) := fun _ => rfl

theorem rdyEdge (e : LineEdge) : Statement (.rdyEdge e) := fun _ => rfl

theorem frameHello (uc : Byte) : Statement (.frameHello uc) := fun _ => rfl

theorem frameStandby (uc : Byte) : Statement (.frameStandby uc) := fun _ => rfl

theorem frameGetSensorId (uc : Byte) : Statement (.frameGetSensorId uc) := fun _ => rfl

theorem frameGetWavelength (uc : Byte) : Statement (.frameGetWavelength uc) := fun _ => rfl

theorem frameAcqSpectrum (uc : Byte) (acq : AcqPayload) : Statement (.frameAcqSpectrum uc acq) := fun _ => rfl

theorem frameGetSpectrum (uc : Byte) (payload : List Byte) : Statement (.frameGetSpectrum uc payload) := fun _ => rfl

theorem frameAcqXyz (uc : Byte) (acq : AcqPayload) : Statement (.frameAcqXyz uc acq) := fun _ => rfl

theorem frameGetXyz (uc : Byte) (payload : List Byte) : Statement (.frameGetXyz uc payload) := fun _ => rfl

theorem frameUnknown (uc : Byte) (payload : List Byte) : Statement (.frameUnknown uc payload) := fun _ => rfl

end EncodedAgent

end Sys2Proof.Laws
end

