-- ==== Sys2Proof/Tests/Slice0.lean ====
section
/-! SUPPORT. Tests. Expected values are those of 95_test_vectors.md (named V, E or P) or worked out by hand from the rule
named. All run on the test instantiation T. -/

namespace Sys2Proof.Tests

open Sys2Proof.Machine Sys2Proof.Safety

/-- The test instantiation T, which obeys R10. -/
def cT : LegalParams := { params := Params.illustrative, legal := by decide }

/-- Right after power-on under T. -/
def s0 : State := State.resetWith cT

/-- The outcome is a next state that meets the check. -/
def goes (o : Host.Outcome State Fault Refusal) (check : State → Bool) : Bool :=
  match o with
  | .next t => check t
  | .fault _ => false
  | .refused _ => false

/-- The outcome is that fault. -/
def faults (o : Host.Outcome State Fault Refusal) (f : Fault) : Bool :=
  match o with
  | .next _ => false
  | .fault g => decide (g = f)
  | .refused _ => false

/-- The decoder answers that instruction. -/
def reads (r : Except FrameReject Instr) (i : Instr) : Bool :=
  match r with
  | .ok j => decide (j = i)
  | .error _ => false

/-- The decoder refuses, for that reason. -/
def rejects (r : Except FrameReject Instr) (why : FrameReject) : Bool :=
  match r with
  | .ok _ => false
  | .error e => decide (e = why)

/-- A buffer that holds a byte sequence from index `a` on. -/
def at_ (a : Nat) (bs : List Byte) : Memory := Memory.writes [] a bs

/-- The buffer holds the byte sequence from index `a` on. -/
def holds (m : Memory) (a : Nat) (bs : List Byte) : Bool :=
  match Memory.readRange m a bs.length with
  | .ok vs => vs == bs
  | .error _ => false

/-- The Hello frame of E1, and the Acq frame of E10. -/
def hello : List Byte := [0xAA, 0x55, 0x01, 0x10, 0xF0]
def acq : List Byte := [0xAA, 0x55, 0x05, 0x22, 0x64, 0x00, 0x03, 0x01, 0x00, 0x72]

/-! ### Well-formedness: an ill-formed term for each check, and the first term that passes it -/

theorem test_wellFormed_reservedOp :
    wellFormed cT.params (.reservedOp 0x0C) = false ∧ wellFormed cT.params (.reservedOp 0x0D) = true := by decide

theorem test_wellFormed_regWrite_triggers :
    wellFormed cT.params (.regWrite 0x000 1) = false ∧ wellFormed cT.params (.regWrite 0x00D 1) = false ∧
      wellFormed cT.params (.regWrite 0x017 1) = false ∧ wellFormed cT.params (.regWrite 0x001 1) = true := by decide

theorem test_wellFormed_frameGetSpectrum :
    wellFormed cT.params (.frameGetSpectrum 0 [1]) = false ∧ wellFormed cT.params (.frameGetSpectrum 0 []) = true := by
  decide

theorem test_wellFormed_frameGetXyz :
    wellFormed cT.params (.frameGetXyz 0 [1]) = false ∧ wellFormed cT.params (.frameGetXyz 0 []) = true := by decide

/-! ### Decoding: words written out from R97, R99, R102 and the frames of R90 to R96 -/

theorem test_decode_op_low : [0x00, 0x01, 0x02, 0x03, 0x04, 0x05, 0x06].map (decodeTableWord 8) =
    [some .nop, some .init, some .build, some .payloadAcq, some .xmit, some .validate, some .restore] := by decide

theorem test_decode_op_high : [0x07, 0x08, 0x09, 0x0A, 0x0B, 0x0C, 0x0D, 0xFF].map (decodeTableWord 8) =
    [some .synthStandby, some .retClr, some .rdyClr, some .poll, some .fwdDrain, some .csClr, some (.reservedOp 0x0D),
      some (.reservedOp 0xFF)] := by decide

theorem test_decode_triggers :
    decodeTableWord 16 0x000D = some (.fwdByte 0) ∧ decodeTableWord 16 0x0017 = some (.csAdd 0) ∧
      decodeTableWord 24 0xA5000D = some (.fwdByte 0xA5) := by decide

theorem test_decode_bus_and_ports :
    reads (decode cT.params (.hostRead 0x013)) (.regRead 0x013) = true ∧
      reads (decode cT.params (.hostWrite 0x003 0x05)) (.regWrite 0x003 0x05) = true ∧
      reads (decode cT.params (.rx 0x5A)) (.rxByte 0x5A) = true ∧
      reads (decode cT.params (.readyEdge .rising)) (.rdyEdge .rising) = true := by decide

/-- Checksums by hand: 00 - (AA + 55 + code + user code). -/
theorem test_decode_short_frames :
    reads (decode cT.params (.relay hello)) (.frameHello 0x10) = true ∧
      reads (decode cT.params (.relay [0xAA, 0x55, 0x02, 0x10, 0xEF])) (.frameStandby 0x10) = true ∧
      reads (decode cT.params (.relay [0xAA, 0x55, 0x03, 0x07, 0xF7])) (.frameGetSensorId 0x07) = true ∧
      reads (decode cT.params (.relay [0xAA, 0x55, 0x04, 0x00, 0xFD])) (.frameGetWavelength 0x00) = true := by decide

/-- E10, V24's frame, P2's fetch, and the sentinel of V23. -/
theorem test_decode_other_frames :
    reads (decode cT.params (.relay acq)) (.frameAcqSpectrum 0x22 ⟨0x0064, 0x03, 0x01, 0x00⟩) = true ∧
      reads (decode cT.params (.relay [0xAA, 0x55, 0x07, 0x01, 0x34, 0x12, 0, 0, 0, 0xB3]))
        (.frameAcqXyz 0x01 ⟨0x1234, 0, 0, 0⟩) = true ∧
      reads (decode cT.params (.relay [0xAA, 0x55, 0x06, 0x22, 0xD9])) (.frameGetSpectrum 0x22 []) = true ∧
      reads (decode cT.params (.relay [0xAA, 0x55, 0x08, 0x22, 0xD7])) (.frameGetXyz 0x22 []) = true ∧
      reads (decode cT.params (.relay [0xAA, 0x55, 0xFF, 0x00, 0x02])) (.frameUnknown 0x00 []) = true := by decide

theorem test_decode_rejects_by_name :
    rejects (decode cT.params (.relay [0xAA, 0x55, 0x01, 0x10])) .short = true ∧
      rejects (decode cT.params (.relay [0xAB, 0x55, 0x01, 0x10, 0xEF])) .badPrefix = true ∧
      rejects (decode cT.params (.relay [0xAA, 0x55, 0x01, 0x10, 0xF1])) .badChecksum = true ∧
      rejects (decode cT.params (.relay [0xAA, 0x55, 0x09, 0x01, 0xF7])) .notAFunctionCode = true ∧
      rejects (decode cT.params (.relay [0xAA, 0x55, 0x01, 0x10, 0x00, 0xF0])) .badLength = true := by decide

/-! ### Checksum functions -/

/-- V1, V6, V7, V9, V10. -/
theorem test_checksum8 : checksum8 [] = 0x00 ∧ checksum8 [0xFF, 0xFF, 0xFF] = 0x03 ∧ checksum8 [0x80] = 0x80 ∧
    checksum8 [0xAA, 0x55, 0x01, 0x10] = 0xF0 ∧ checksum8 [0xAA, 0x55, 0x05, 0x22, 0x64, 0, 3, 1, 0] = 0x72 := by
  decide

/-- Section 2.1: two compensating corruptions pass, one does not. -/
theorem test_valid8 : valid8 hello = true ∧ valid8 [0xAA, 0x56, 0x01, 0x0F, 0xF0] = true ∧
    valid8 [0xAA, 0x55, 0x01, 0x10, 0xF1] = false := by decide

/-! ### Single steps -/

/-- V81. -/
theorem test_nop : goes (exec .nop { s0 with err := 0x11 }) (fun t => t.err == 0x00) = true := by decide

/-- V84. -/
theorem test_init :
    goes (exec .init { s0 with fcur := 3, asyncFc := 0x05, rdyFlag := true, csAcc := 0x12, cmd := at_ 0 [0xAA] })
      (fun t => t.fcur == 0 && t.asyncFc == 0xFF && !t.rdyFlag && t.csAcc == 0 && statusByte t == 0x20 &&
        holds t.cmd 0 [0xAA]) = true := by decide

/-- V82, V83. -/
theorem test_reservedOp : goes (exec (.reservedOp 0x0D) s0) (fun t => t.err == 0x11) = true ∧
    goes (exec (.regWrite 0x000 0xFF) s0) (fun t => t.err == 0x11) = true := by decide

/-- V24. -/
theorem test_build_acq :
    goes (exec .build { s0 with argFc := 0x07, argUc := 0x01, argL := 10, argFlags := 1, cmd := at_ 4 [0, 0, 0, 0, 0] })
      (fun t => holds t.cmd 0 [0xAA, 0x55, 0x07, 0x01, 0, 0, 0, 0, 0, 0xF9] && t.asyncFc == 0x07 &&
        holds t.bak 0 [0xAA, 0x55, 0x07, 0x01, 0, 0, 0, 0, 0, 0xF9] && t.lastL == 10) = true := by decide

/-- V18, V21, V27. -/
theorem test_build_refusals :
    goes (exec .build { s0 with argL := 4 }) (fun t => t.err == 0x10 && t.lastL == 0) = true ∧
      goes (exec .build { s0 with argL := 17 }) (fun t => t.err == 0x10) = true ∧
      faults (exec .build { s0 with argFc := 0x01, argUc := 0x10, argL := 10 }) (.unwrittenByte .cmd 4) = true := by
  decide

/-- V29. -/
theorem test_payloadAcq : goes (exec .payloadAcq { s0 with argIt := 0x1234, argAvg := 0x0A })
    (fun t => holds t.cmd 4 [0x34, 0x12, 0x0A, 0x00, 0x00] && t.cmd.length == 5) = true := by decide

/-- V31. -/
theorem test_xmit_nothing_built : goes (exec .xmit { s0 with rxCnt := 3 })
    (fun t => t.err == 0x10 && t.rxCnt == 3 && t.history == []) = true := by decide

/-- V32. -/
theorem test_xmit :
    goes (exec .xmit { s0 with lastL := 5, cmd := at_ 0 hello, rxCnt := 3, retSize := 5, ok := true, rdyFlag := true })
    (fun t => t.history == [.tx hello] && t.rxCnt == 0 && t.retSize == 0 && !t.ok && t.rdyFlag && t.err == 0x00) =
      true := by decide

/-- A received frame, as in section 2.6. -/
def received (r : Half) (bs : List Byte) : State :=
  { s0 with argR := r, lastFc := 0x01, lastUc := 0x10, ret := at_ 0 bs, rxCnt := BitVec.ofNat 16 bs.length }

/-- V36, V33. -/
theorem test_validate_success :
    goes (exec .validate (received 5 hello)) (fun t => t.err == 0x00 && t.ok && t.retSize == 5) = true ∧
      goes (exec .validate { received 5 hello with argFlags := 2 })
        (fun t => t.err == 0x00 && t.ok && t.retSize == 0) = true := by decide

/-- V49, V40, V47, V46: the order of the checks. -/
theorem test_validate_failures :
    goes (exec .validate (received 4 [0xAA, 0x55, 0x01])) (fun t => t.err == 0x10) = true ∧
      goes (exec .validate (received 5 [0xAA, 0x55, 0x01, 0x10])) (fun t => t.err == 0x03 && t.rxCnt == 4) = true ∧
      goes (exec .validate (received 5 [0xAA, 0x55, 0x01, 0x11, 0xF0])) (fun t => t.err == 0x02) = true ∧
      goes (exec .validate (received 5 [0xAA, 0x55, 0x01, 0x10, 0xF1])) (fun t => t.err == 0x01 && !t.ok) = true := by
  decide

/-- V33r; a byte that is unwritten in `BAK` is unwritten in `CMD` afterwards (R49). -/
theorem test_restore : goes (exec .restore { s0 with bak := at_ 0 hello, cmd := at_ 4 [1, 2] })
    (fun t => holds t.cmd 0 hello && !(Memory.read t.cmd 5).isSome) = true := by decide

/-- V51. -/
theorem test_synthStandby : goes (exec .synthStandby { s0 with argUc := 0x33 })
    (fun t => holds t.ret 0 [0xAA, 0x55, 0x02, 0x33, 0xCC] && t.retSize == 5 && t.ok && t.rxCnt == 0 &&
      t.history == []) = true := by decide

/-- V54. -/
theorem test_retClr : goes (exec .retClr { s0 with retSize := 5, ok := true })
    (fun t => t.retSize == 0 && t.ok) = true := by decide

/-- V55. -/
theorem test_rdyClr : goes (exec .rdyClr { s0 with rdyFlag := true }) (fun t => !t.rdyFlag) = true := by decide

/-- V61 to V65's start. -/
def polled (fc : Byte) (rdy : Bool) : State :=
  { s0 with lastUc := 0x22, argFc := 0x99, argUc := 0x98, argFlags := 3, asyncFc := fc, rdyFlag := rdy }

/-- V62. -/
theorem test_poll_due : goes (exec .poll (polled 0x07 true))
    (fun t => t.fetchDue && t.argFc == 0x08 && t.argUc == 0x22 && t.argFlags == 0 && t.asyncFc == 0x07 && t.rdyFlag) =
      true := by decide

/-- V63, V64, V65. -/
theorem test_poll_not_due : [(0x05, false), (0xFF, true), (0x01, true)].all (fun (fc, rdy) =>
    goes (exec .poll (polled fc rdy)) (fun t => !t.fetchDue && t.argFc == 0x99 && t.argUc == 0x98 && t.argFlags == 3)) =
      true := by decide

/-- V78. -/
theorem test_fwdDrain : goes (exec .fwdDrain { s0 with ffilled := true, fbuf := at_ 0 hello })
    (fun t => holds t.cmd 0 hello && t.argFc == 0x01 && t.argUc == 0x10 && t.argL == 5 && !t.ffilled && t.drained) =
      true := by decide

/-- V79. -/
theorem test_fwdDrain_nothing : goes (exec .fwdDrain { s0 with drained := true, argL := 5 })
    (fun t => !t.drained && t.argL == 5) = true := by decide

/-- V12. -/
theorem test_csClr : goes (exec .csClr { s0 with csAcc := 0x5A })
    (fun t => t.csAcc == 0x00 && regValue t .csChk == 0x00 && csZero t) = true := by decide

/-- V15, and V13's last step (9A from AA, 55, 9B wraps to 10). -/
theorem test_csAdd : goes (exec (.csAdd 0x01) { s0 with csAcc := 0xFF }) (fun t => t.csAcc == 0x00) = true ∧
    goes (exec (.csAdd 0x10) { s0 with csAcc := 0x00, err := 0x11 })
      (fun t => regValue t .csChk == 0xF0 && t.err == 0x11) = true := by decide

/-- Outcome tags of a run of fed bytes, from an empty framer. -/
def fed (bs : List Byte) (tags : List FwdOutcome) : Bool :=
  goes (feedBytes bs s0) fun t => fwdOutcomes t.history == tags

/-- V70, V76. -/
theorem test_fwdByte_resets :
    fed [0xAA, 0x01, 0x55, 0xAA, 0x55, 0x04, 0x00, 0xFD]
        [.accept, .resetDesync, .dropIdle, .accept, .accept, .accept, .accept, .complete] = true ∧
      fed [0xAA, 0x55, 0x01, 0x10, 0xAA, 0x55] [.accept, .accept, .accept, .accept, .resetChecksum, .dropIdle] = true := by
  decide

/-- V75's first drop, and V69: the byte that fails at offset 1 is not looked at again. -/
theorem test_fwdByte_drops :
    fed (hello ++ [0xAA]) [.accept, .accept, .accept, .accept, .complete, .dropBackpressure] = true ∧
      fed [0xAA, 0xAA, 0x55, 0x01] [.accept, .resetDesync, .dropIdle, .dropIdle] = true := by decide

/-- V85, V90, V87: the byte that the host gets. -/
theorem test_regRead :
    goes (exec (.regRead 0x008) { s0 with argFlags := 3 }) (fun t => t.history == [.readData 0x008 0x03]) = true ∧
      goes (exec (.regRead 0x110) s0) (fun t => t.history == [.readData 0x110 0x00]) = true ∧
      goes (exec (.regRead 0x001) s0) (fun t => t.history == [.readData 0x001 0x20]) = true := by decide

/-- V89: the read of a window byte that nothing has written. -/
theorem test_regRead_unwritten : faults (exec (.regRead 0x400) s0) (.unwrittenByte .ret 0) = true := by decide

/-- V85; the high byte of a pair; a byte of the command window. -/
theorem test_regWrite :
    goes (exec (.regWrite 0x008 0xFF) s0) (fun t => t.argFlags == 3) = true ∧
      goes (exec (.regWrite 0x007 0x12) { s0 with argR := 0x3456 }) (fun t => t.argR == 0x1256) = true ∧
      goes (exec (.regWrite 0x10F 0x77) s0) (fun t => holds t.cmd 15 [0x77]) = true := by decide

/-- V88, V89: read-only, so ignored. -/
theorem test_regWrite_ignored :
    goes (exec (.regWrite 0x001 0xFF) s0) (fun t => decide (t = s0)) = true ∧
      goes (exec (.regWrite 0x400 0x77) s0) (fun t => decide (t = s0)) = true := by decide

/-- V34. -/
theorem test_rxByte : goes (exec (.rxByte 0x01) { s0 with rxCnt := 2 })
    (fun t => t.rxCnt == 3 && holds t.ret 2 [0x01]) = true := by decide

/-- V35's last byte: past the capacity it is dropped. -/
theorem test_rxByte_dropped : goes (exec (.rxByte 0x41) { s0 with rxCnt := 64 })
    (fun t => t.rxCnt == 64 && t.ret == []) = true := by decide

/-- V56, V57. -/
theorem test_rdyEdge : goes (exec (.rdyEdge .rising) s0) (fun t => t.rdyFlag) = true ∧
    goes (exec (.rdyEdge .rising) { s0 with rdyFlag := true }) (fun t => t.rdyFlag) = true := by decide

/-- The last fed frame is filled, or the framer is empty, and `FBUF` starts with those bytes. -/
def framed (i : Instr) (filled : Bool) (bs : List Byte) : Bool :=
  goes (exec i s0) fun t => t.ffilled == filled && t.fcur == 0 && holds t.fbuf 0 bs

/-- E3, V74, V70's frame, and V75's second frame. -/
theorem test_short_frames : framed (.frameHello 0x10) true hello = true ∧
    framed (.frameGetSensorId 0x07) true [0xAA, 0x55, 0x03, 0x07, 0xF7] = true ∧
    framed (.frameGetWavelength 0x00) true [0xAA, 0x55, 0x04, 0x00, 0xFD] = true ∧
    framed (.frameStandby 0x10) true [0xAA, 0x55, 0x02, 0x10, 0xEF] = true := by decide

/-- V71, V72 (a payload of prefix bytes) for AcqXYZ: checksum by hand, 00 - (AA + 55 + 07 + AA + AA + 55 + AA + 55). -/
theorem test_acq_frames : framed (.frameAcqSpectrum 0x22 ⟨100, 3, 1, 0⟩) true acq = true ∧
    framed (.frameAcqXyz 0xAA ⟨0x55AA, 0xAA, 0x55, 0x00⟩) true
      [0xAA, 0x55, 0x07, 0xAA, 0xAA, 0x55, 0xAA, 0x55, 0x00, 0x52] = true := by decide

/-- V67, V68, and GetXYZ alike: unrecognised at the third byte. -/
theorem test_unrecognised_frames : framed (.frameGetSpectrum 0x10 []) false [0xAA, 0x55, 0x06] = true ∧
    framed (.frameGetXyz 0x10 []) false [0xAA, 0x55, 0x08] = true ∧
    framed (.frameUnknown 0x00 []) false [0xAA, 0x55, 0xFF] = true := by decide

/-! ### The step -/

/-- The first step after reset runs the word put there: `XMIT` with nothing built (V31). -/
theorem test_step_runs_the_fetched_word :
    goes (step (State.reset.withFetchWord 8 0x04)) (fun t => t.err == 0x10 && t.pending == []) = true := by decide

theorem test_step_idle : goes (step s0) (fun t => decide (t = s0)) = true := by decide

/-! ### The host procedure `send` -/

/-- The verdict of a `send`, and a check of the state it ends in. -/
def sends (o : Host.Outcome (SendVerdict × State) Fault Refusal) (v : SendVerdict) (check : State → Bool) : Bool :=
  match o with
  | .next (w, t) => decide (w = v) && check t
  | .fault _ => false
  | .refused _ => false

/-- V18's length: `BUILD` fails and nothing is transmitted. -/
theorem test_send_build_fails : sends (sendLine true (answeredBy hello) [] { s0 with argL := 4 }) .failure
    (fun t => t.err == 0x10 && t.history == []) = true := by decide

/-- P4's first two answers: a bad checksum, then the right one. Without retry it ends at the first. -/
theorem test_send_retries :
    sends (sendCommand 0x01 0x10 5 5 false false true (answeredBy [0xAA, 0x55, 0x01, 0x10, 0xF1]) [answeredBy hello] s0)
      .success (fun t => txEvents t.history == [hello, hello] && t.ok) = true ∧
    sends (sendCommand 0x01 0x10 5 5 false false false (answeredBy [0xAA, 0x55, 0x01, 0x10, 0xF1]) [answeredBy hello] s0)
      .failure (fun t => txEvents t.history == [hello] && t.err == 0x01) = true := by decide

/-- A `VALIDATE` that answers `BAD_LENGTH`: R162 retries it, R103(f) does not (log 20). -/
theorem test_send_bad_length :
    sends (sendCommand 0x01 0x10 5 4 false false true (answeredBy hello) [answeredBy hello] s0)
      .retrying (fun t => txEvents t.history == [hello, hello] && t.err == 0x10) = true ∧
    sends (sendLine true (answeredBy hello) [answeredBy hello]
        { s0 with argFc := 0x01, argUc := 0x10, argL := 5, argR := 4 })
      .failure (fun t => txEvents t.history == [hello] && t.err == 0x10) = true := by decide

/-- R103(d), R276: on SPI a host waits on while fewer than `R` bytes have arrived. -/
theorem test_send_waits : sends (sendCommand 0x01 0x10 5 5 false false true (answeredBy [0xAA]) [] s0)
    .waiting (fun t => t.rxCnt == 1) = true := by decide

/-! ### Witnesses: states and operands that meet the hypotheses of the statements, clause by clause -/

/-- A host's program, wherever it runs: V19's operands written, one command built. -/
def sBuilt : State := { s0 with argFc := 0x01, argUc := 0x10, argL := 5, argR := 5, lastFc := 0x01, lastUc := 0x10,
                                lastL := 5, cmd := at_ 0 hello, bak := at_ 0 hello }

/-- A framer with `n` bytes of a frame in progress. -/
def sFraming (bs : List Byte) : State := { s0 with fbuf := at_ 0 bs, fcur := BitVec.ofNat 8 bs.length }

/-- A framer that holds a frame. -/
def sFilled : State := { s0 with fbuf := at_ 0 hello, ffilled := true }

theorem framerInv_reset : FramerInv s0 where
  cursor := by decide
  progress := by decide
  start := by decide
  second := by decide
  code := fun h => absurd h (by decide)
  filled := fun h => absurd h (by decide)

theorem framerInv_one : FramerInv (sFraming [0xAA]) where
  cursor := by decide
  progress := by decide
  start := by decide
  second := by decide
  code := fun h => absurd h (by decide)
  filled := fun h => absurd h (by decide)

theorem framerInv_two : FramerInv (sFraming [0xAA, 0x55]) where
  cursor := by decide
  progress := by decide
  start := by decide
  second := by decide
  code := fun h => absurd h (by decide)
  filled := fun h => absurd h (by decide)

theorem framerInv_three : FramerInv (sFraming [0xAA, 0x55, 0x01]) where
  cursor := by decide
  progress := by decide
  start := by decide
  second := by decide
  code := fun _ => ⟨0x01, 5, by decide⟩
  filled := fun h => absurd h (by decide)

theorem framerInv_four : FramerInv (sFraming [0xAA, 0x55, 0x01, 0x10]) where
  cursor := by decide
  progress := by decide
  start := by decide
  second := by decide
  code := fun _ => ⟨0x01, 5, by decide⟩
  filled := fun h => absurd h (by decide)

theorem framerInv_eight : FramerInv (sFraming (acq.take 8)) where
  cursor := by decide
  progress := by decide
  start := by decide
  second := by decide
  code := fun _ => ⟨0x05, 10, by decide⟩
  filled := fun h => absurd h (by decide)

theorem framerInv_nine : FramerInv (sFraming (acq.take 9)) where
  cursor := by decide
  progress := by decide
  start := by decide
  second := by decide
  code := fun _ => ⟨0x05, 10, by decide⟩
  filled := fun h => absurd h (by decide)

theorem framerInv_filled : FramerInv sFilled where
  cursor := by decide
  progress := by decide
  start := by decide
  second := by decide
  code := fun h => absurd h (by decide)
  filled := fun _ => ⟨rfl, 0x10, 0x01, 5, [0xF0], rfl, by decide⟩

/-- The invariant holds in a state with a command built, and in one with a frame filled. -/
theorem blockInv_built : BlockInv sBuilt where
  buffers := ⟨by decide, by decide, by decide, by decide⟩
  framer := ⟨by decide, by decide, by decide, by decide, fun h => absurd h (by decide), fun h => absurd h (by decide)⟩
  exchange := ⟨by decide, by decide, by decide, by decide, by decide, by decide, by decide, by decide⟩

theorem blockInv_filled : BlockInv sFilled where
  buffers := ⟨by decide, by decide, by decide, by decide⟩
  framer := framerInv_filled
  exchange := ⟨by decide, by decide, by decide, by decide, by decide, by decide, by decide, by decide⟩

theorem witness_DecodeOfEncodeIsTheInstruction :
    wellFormed cT.params (.reservedOp 0xFF) = true ∧ wellFormed cT.params (.regWrite 0xFFFF 0) = true ∧
      wellFormed cT.params (.frameGetXyz 0 []) = true ∧ wellFormed cT.params (.frameAcqXyz 0 ⟨0, 0, 0, 0xFF⟩) = true := by
  decide

theorem witness_EncodeOfDecodeIsTheTransaction :
    decode cT.params (.hostWrite 0x000 0x0D) = .ok (.reservedOp 0x0D) ∧
      decode cT.params (.relay hello) = .ok (.frameHello 0x10) ∧ wellFormed cT.params (.frameHello 0x10) = true ∧
      encode cT.params (.frameHello 0x10) = .relay hello := ⟨rfl, rfl, rfl, rfl⟩

theorem witness_OpCodeMapIsTheTable : 0x0D ≤ (0x0D#8).toNat ∧ 0x0D ≤ (0xFF#8).toNat := by decide

theorem witness_StepRunsTheDecodedInstruction :
    s0.pending = [] ∧ ({ s0 with pending := [.rx 1] }).pending = .rx 1 :: [] ∧
      decode s0.par (.rx 1) = .ok (.rxByte 1) ∧ decode s0.par (.relay []) = .error .short := ⟨rfl, rfl, rfl, rfl⟩

theorem witness_ParametersStayAndHistoryGrows : exec .nop s0 = .next s0 := rfl

theorem witness_PowerOnRefusesIllegalParameters :
    Params.illustrative.functionCodes.Pairwise (· ≠ ·) ∧ 10 ≤ Params.illustrative.cmdCap ∧
      Params.illustrative.cmdCap ≤ 255 ∧ 5 ≤ Params.illustrative.retCap ∧ Params.illustrative.retCap ≤ 1024 ∧
      5 ≤ Params.illustrative.rStandby ∧ Params.illustrative.rStandby ≤ Params.illustrative.retCap ∧
      ¬ 10 ≤ ({ Params.illustrative with cmdCap := 9 } : Params).cmdCap ∧
      ¬ ({ Params.illustrative with fcUnknown := 0x01 } : Params).functionCodes.Pairwise (· ≠ ·) := by decide

/-- The first and the last byte of each window, written and unwritten. -/
theorem witness_RegReadOfAWindowReturnsTheByte :
    (0x100#16).toNat = 0x100 + 0 ∧ (0x10F#16).toNat = 0x100 + 15 ∧ (0x200#16).toNat = 0x200 + 0 ∧
      (0x20F#16).toNat = 0x200 + 15 ∧ (0x400#16).toNat = 0x400 + 0 ∧ (0x43F#16).toNat = 0x400 + 63 ∧
      15 < s0.par.cmdCap ∧ 63 < s0.par.retCap ∧ Memory.read sBuilt.cmd 0 = some 0xAA ∧ Memory.read s0.ret 63 = none := by
  decide

/-- The first and the last offset of each reserved range. -/
theorem witness_ReservedOffsetsReadZeroAndIgnoreWrites :
    0x01A ≤ (0x01A#16).toNat ∧ (0x0FF#16).toNat ≤ 0x0FF ∧ 0x100 + s0.par.cmdCap ≤ (0x110#16).toNat ∧
      (0x1FF#16).toNat ≤ 0x1FF ∧ 0x200 + s0.par.cmdCap ≤ (0x210#16).toNat ∧ (0x2FF#16).toNat ≤ 0x2FF ∧
      0x300 ≤ (0x300#16).toNat ∧ (0x3FF#16).toNat ≤ 0x3FF ∧ 0x400 + s0.par.retCap ≤ (0x440#16).toNat ∧
      0x400 + s0.par.retCap ≤ (0xFFFF#16).toNat := by decide

theorem witness_RegWriteStoresTheOperand :
    Reg.argFlags ∈ [Reg.argFc, .argUc, .argL, .argRLo, .argRHi, .argFlags, .argItLo, .argItHi, .argAvg, .argAe] ∧
      Reg.argAe ≠ Reg.argFlags := by decide

theorem witness_RegWriteInTheCommandWindow :
    ((0x100#16).toNat = 0x100 + 0 ∧ 0 < s0.par.cmdCap) ∧ ((0x10F#16).toNat = 0x100 + 15 ∧ 15 < s0.par.cmdCap) := by decide

theorem witness_RegWriteToReadOnlyIsIgnored :
    (0x019#16) ∈ [0x001#16, 0x002, 0x00E, 0x00F, 0x010, 0x011, 0x012, 0x013, 0x014, 0x015, 0x016, 0x018, 0x019] ∧
      (0x20F#16).toNat < 0x200 + s0.par.cmdCap ∧ (0x43F#16).toNat < 0x400 + s0.par.retCap := by decide

theorem witness_ChecksumIsTheNegatedModularSum : sum8 [0x80] = 0x80 ∧ [0x01#8, 0x02].Perm [0x02#8, 0x01] := by decide

theorem witness_ValidationIsTheModularSum :
    valid8 ([0xAA, 0x55] ++ 0x01 :: [0x10, 0xF0]) = true ∧ (0x02#8) ≠ 0x01 ∧ valid8 ([0xAA, 0x55, 0x01, 0x10] ++ [0xF0]) =
      true := by decide

theorem witness_BuilderAndFramerDoNotTouchTheAccumulator :
    Instr.build ∈ [Instr.build, .validate, .synthStandby, .fwdByte 0] ∧ (∃ t, exec .build sBuilt = .next t) ∧
      exec .build { s0 with argL := 6 } = .fault (.unwrittenByte .cmd 4) := ⟨by decide, ⟨_, rfl⟩, rfl⟩

theorem witness_NopAndReservedOpWriteOnlyErr : 0x0D ≤ (0x0D#8).toNat ∧ 0x0D ≤ (0xFF#8).toNat := by decide

theorem witness_OnlyOpOperationsWriteErr :
    wellFormed s0.par .xmit = true ∧ (∃ t, exec .xmit s0 = .next t) ∧ writerOf .xmit ∈ opWriters ∧
      wellFormed s0.par (.csAdd 1) = true ∧ (∃ t, exec (.csAdd 1) s0 = .next t) ∧ writerOf (.csAdd 1) ∉ opWriters :=
  ⟨rfl, ⟨_, rfl⟩, by decide, rfl, ⟨_, rfl⟩, by decide⟩

theorem witness_OnlyTheListedWritersWrite :
    wellFormed s0.par (.regWrite 0x003 5) = true ∧ ∃ t, exec (.regWrite 0x003 5) s0 = .next t := ⟨rfl, ⟨_, rfl⟩⟩

/-- Just below and just above each range. -/
theorem witness_LengthChecksReject :
    ({ s0 with argL := 4 }).argL.toNat < 5 ∧ s0.par.cmdCap < ({ s0 with argL := 17 }).argL.toNat ∧ s0.lastL = 0 ∧
      ({ s0 with argR := 4 }).argR.toNat < 5 ∧ s0.par.retCap < ({ s0 with argR := 65 }).argR.toNat := by decide

/-- The shortest and the longest command, and a length refused. -/
theorem witness_BuildInsertsHeaderAndChecksum :
    (5 ≤ sBuilt.argL.toNat ∧ sBuilt.argL.toNat ≤ sBuilt.par.cmdCap ∧
        Memory.readRange sBuilt.cmd 4 (sBuilt.argL.toNat - 5) = .ok []) ∧
      ((16#8).toNat ≤ s0.par.cmdCap ∧
        Memory.readRange (at_ 4 (List.replicate 11 0)) 4 ((16#8).toNat - 5) = .ok (List.replicate 11 0)) ∧
      (4#8).toNat < 5 := ⟨⟨by decide, by decide, rfl⟩, ⟨by decide, rfl⟩, by decide⟩

/-- The shortest command with a payload byte, and V27. -/
theorem witness_BuildFaultsOnUnwrittenPayload :
    ((6#8).toNat ≤ s0.par.cmdCap ∧ 4 + 1 < (6#8).toNat ∧ Memory.read s0.cmd 4 = none) ∧
      ((10#8).toNat ≤ s0.par.cmdCap ∧ 8 + 1 < (10#8).toNat ∧ Memory.read (at_ 4 [0, 0, 0, 0]) 8 = none ∧
        ∀ j, 4 ≤ j → j < 8 → written (at_ 4 [0, 0, 0, 0]) j) := by
  refine ⟨by decide, by decide, by decide, by decide, ?_⟩
  intro j h4 h8
  obtain rfl | rfl | rfl | rfl : j = 4 ∨ j = 5 ∨ j = 6 ∨ j = 7 := by omega
  all_goals decide

theorem witness_RebuildingAValidFrameKeepsIt :
    5 ≤ sBuilt.argL.toNat ∧ sBuilt.argL.toNat ≤ sBuilt.par.cmdCap ∧
      Memory.readRange sBuilt.cmd 0 sBuilt.argL.toNat =
        .ok ([sBuilt.par.prefix0, sBuilt.par.prefix1, sBuilt.argFc, sBuilt.argUc] ++ [0xF0]) ∧
      valid8 ([sBuilt.par.prefix0, sBuilt.par.prefix1, sBuilt.argFc, sBuilt.argUc] ++ [0xF0]) = true :=
  ⟨by decide, by decide, rfl, by decide⟩

theorem witness_XmitEmitsTheCommand :
    s0.lastL = 0 ∧ sBuilt.lastL ≠ 0 ∧ Memory.readRange sBuilt.cmd 0 sBuilt.lastL.toNat = .ok hello :=
  ⟨rfl, by decide, rfl⟩

/-- The four verdicts and success: lengths at the boundary, one byte short, a wrong header, a wrong sum. -/
theorem witness_ValidateGivesTheFirstVerdict :
    ((received 4 []).argR.toNat < 5 ∧ s0.par.retCap < (received 65 []).argR.toNat) ∧
      (received 5 [1, 2, 3, 4]).rxCnt.toNat < (received 5 [1, 2, 3, 4]).argR.toNat ∧
      ((received 5 hello).argR.toNat ≤ (received 5 hello).rxCnt.toNat ∧
        Memory.readRange (received 5 hello).ret 0 5 = .ok hello ∧ sum8 hello = 0) ∧
      Memory.read (received 5 [0xAA, 0x55, 0x01, 0x11, 0xEF]).ret 3 ≠ some (received 5 []).lastUc ∧
      sum8 [0xAA, 0x55, 0x01, 0x10, 0xF1] ≠ 0 := ⟨by decide, by decide, ⟨by decide, rfl, by decide⟩, by decide, by decide⟩

theorem witness_ValidateRepeatsItsVerdict : ∃ t, exec .validate (received 5 hello) = .next t := ⟨_, rfl⟩

theorem witness_FetchMapsTheTwoAcquisitions :
    (0x01#8) ≠ cT.params.fcAcqSpectrum ∧ (0x01#8) ≠ cT.params.fcAcqXyz := by decide

theorem witness_PollDecidesTheFetch :
    ((polled 0x05 true).rdyFlag = true ∧ fetchCode s0.par (polled 0x05 true).asyncFc = some 0x06) ∧
      (polled 0x05 false).rdyFlag = false ∧ fetchCode s0.par (polled 0xFF true).asyncFc = none := by decide

/-- An acquisition's operands, its payload written. -/
def sAcq : State := { s0 with argFc := 0x05, argUc := 0x22, argL := 10, argFlags := 1, cmd := at_ 4 [100, 0, 3, 1, 0] }

theorem witness_AsyncLifecycleFetchesOnce :
    sAcq.argFc = sAcq.par.fcAcqSpectrum ∧ sAcq.argFlags.getLsbD 0 = true ∧ activeEdge sAcq.par.rdyEdge .rising = true ∧
      (∃ s1, exec .build sAcq = .next s1 ∧ s1.err = 0x00 ∧
        ∃ s3, execAll [.rdyEdge .rising, .poll] s1 = .next s3 ∧
          ∃ s4, exec .build { s3 with argL := 5 } = .next s4 ∧ s4.err = 0x00) ∧
      ({ sAcq with argFc := 0x07 }).argFc = sAcq.par.fcAcqXyz :=
  ⟨rfl, by decide, rfl, ⟨_, rfl, rfl, _, rfl, _, rfl, rfl⟩, rfl⟩

/-- P4's `rd ERR` after `VALIDATE`, a fed byte, an operand write and a whole relayed frame among the steps. -/
def sSteps : AttemptSteps where
  before := [.regWrite 0x006 5, .fwdByte 0xAA]
  during := [.rxByte 1, .regRead 0x015, .rdyEdge .rising]
  after := [.regRead 0x002, .frameHello 0x10]

theorem witness_RetriesTransmitIdenticalBytes :
    (∃ t, exec .build sBuilt = .next t ∧ t.err = 0x00) ∧ (∀ i ∈ [Instr.rxByte 1, .rdyEdge .rising], portStep i = true) ∧
      (∀ d ∈ [[Instr.rxByte 2]], ∀ i ∈ d, portStep i = true) ∧
      (∀ a ∈ sSteps :: [sSteps], ∀ i ∈ a.steps, betweenAttempts sBuilt.par i = true) ∧
      (∃ t, execAll (attemptInstrs sSteps [sSteps]) sBuilt = .next t) ∧ BlockInv sBuilt ∧
      ∀ a ∈ sSteps :: [sSteps], ∀ i ∈ a.steps, readsWindow sBuilt.par i = false :=
  ⟨⟨_, rfl, rfl⟩, by decide, by decide, by decide, ⟨_, rfl⟩, blockInv_built, by decide⟩

/-- A refused `BUILD`; a run with a host read and a fed byte around its attempts; no, one and two invalid answers. -/
theorem witness_SendTransmitsUntilAValidAnswer :
    (∃ t, exec .build { s0 with argL := 4 } = .next t ∧ t.err ≠ 0x00) ∧
      (∃ t, exec .build sBuilt = .next t ∧ t.err = 0x00 ∧ validAnswer t hello ∧
        ¬ validAnswer t [0xAA, 0x55, 0x01, 0x10, 0xF1] ∧ ¬ validAnswer t [0xAA, 0x55, 0x01, 0x11, 0xEF]) ∧
      (∀ x ∈ [Transaction.hostRead 0x002, .hostWrite 0x00D 0xAA], ∀ i, decode sBuilt.par x = .ok i →
        betweenAttempts sBuilt.par i = true) ∧
      (∃ v t, runSend .sendLine true ⟨[.hostRead 0x002], [], [.hostWrite 0x00D 0xAA], false⟩ [] sBuilt = .next (v, t)) ∧
      (∃ t, runSend .sendCycle true (answeredBy hello) [] { sBuilt with argR := 4 } = .next (.retrying, t)) ∧
      (5 ≤ sBuilt.argR.toNat ∧ sBuilt.argR.toNat ≤ sBuilt.par.retCap) ∧ hello.length = sBuilt.argR.toNat ∧
      answeredBy hello :: [] = ([] ++ [hello]).map answeredBy := by
  refine ⟨⟨_, rfl, by decide⟩, ⟨_, rfl, rfl, by decide, by decide, by decide⟩, ?_, ⟨_, _, rfl⟩, ⟨_, rfl⟩, by decide, rfl, rfl⟩
  intro x hx i h
  simp only [List.mem_cons, List.not_mem_nil, or_false] at hx
  rcases hx with rfl | rfl <;> cases h <;> rfl

/-- The last byte that fits, and the first that does not. -/
theorem witness_RxByteFillsTheReturnBuffer :
    ({ s0 with rxCnt := 63 }).rxCnt.toNat < s0.par.retCap ∧ s0.par.retCap ≤ ({ s0 with rxCnt := 64 }).rxCnt.toNat := by
  decide

/-- T with another polarity. -/
def cEdge (e : EdgePolarity) : LegalParams :=
  { params := { Params.illustrative with rdyEdge := e }, legal := by cases e <;> decide }

theorem witness_ReadyEdgeSetsTheFlag :
    (State.resetWith (cEdge .both)).par.rdyEdge = .both ∧ s0.par.rdyEdge = .rising ∧
      (State.resetWith (cEdge .falling)).par.rdyEdge = .falling := ⟨rfl, rfl, rfl⟩

theorem witness_EdgeOfTheOtherPolarityChangesNothing :
    (s0.par.rdyEdge = .rising ∧ LineEdge.falling = .falling) ∧
      (State.resetWith (cEdge .falling)).par.rdyEdge = .falling ∧ LineEdge.rising = .rising := ⟨⟨rfl, rfl⟩, rfl, rfl⟩

theorem witness_DiscardedBytesChangeNothing :
    sFilled.ffilled = true ∧ s0.ffilled = false ∧ s0.fcur = 0 ∧ (0x55#8) ≠ s0.par.prefix0 := by decide

/-- Frame start; both bytes at offset 1; both kinds at offset 2; the first and the last of the later bytes. -/
theorem witness_FwdByteAppendsOrResets :
    (FramerInv s0 ∧ s0.ffilled = false ∧ s0.fcur.toNat = 0 ∧ (0xAA#8) = s0.par.prefix0) ∧
      (FramerInv (sFraming [0xAA]) ∧ (sFraming [0xAA]).fcur.toNat = 1 ∧ (0x55#8) = s0.par.prefix1 ∧
        (0xAA#8) ≠ s0.par.prefix1) ∧
      (FramerInv (sFraming [0xAA, 0x55]) ∧ (sFraming [0xAA, 0x55]).fcur.toNat = 2 ∧ fwdLen s0.par 0x01 ≠ none ∧
        fwdLen s0.par 0x06 = none) ∧
      (FramerInv (sFraming [0xAA, 0x55, 0x01]) ∧ (sFraming [0xAA, 0x55, 0x01]).fcur.toNat + 1 < 5 ∧
        Memory.read (sFraming [0xAA, 0x55, 0x01]).fbuf 2 = some 0x01 ∧ fwdLen s0.par 0x01 = some 5) ∧
      FramerInv (sFraming (acq.take 8)) ∧ (sFraming (acq.take 8)).fcur.toNat + 1 < 10 ∧
      Memory.read (sFraming (acq.take 8)).fbuf 2 = some 0x05 ∧ fwdLen s0.par 0x05 = some 10 :=
  ⟨⟨framerInv_reset, by decide⟩, ⟨framerInv_one, by decide⟩, ⟨framerInv_two, by decide⟩, ⟨framerInv_three, by decide⟩,
    framerInv_eight, by decide⟩

/-- Both lengths; a valid and an invalid last byte. -/
theorem witness_FwdByteCompletesTheFrame :
    (FramerInv (sFraming (hello.take 4)) ∧ (sFraming (hello.take 4)).ffilled = false ∧
        3 ≤ (sFraming (hello.take 4)).fcur.toNat ∧ Memory.read (sFraming (hello.take 4)).fbuf 2 = some 0x01 ∧
        fwdLen s0.par 0x01 = some 5 ∧ (sFraming (hello.take 4)).fcur.toNat + 1 = 5) ∧
      Memory.readRange (sFraming (hello.take 4)).fbuf 0 4 = .ok (hello.take 4) ∧ valid8 (hello.take 4 ++ [0xF0]) = true ∧
      valid8 (hello.take 4 ++ [0xF1]) = false ∧
      (FramerInv (sFraming (acq.take 9)) ∧ (sFraming (acq.take 9)).fcur.toNat + 1 = 10 ∧ fwdLen s0.par 0x05 = some 10) ∧
      Memory.readRange (sFraming (acq.take 9)).fbuf 0 9 = .ok (acq.take 9) :=
  ⟨⟨framerInv_four, by decide⟩, rfl, by decide, by decide, ⟨framerInv_nine, by decide⟩, rfl⟩

theorem witness_DropFullIsUnreachable :
    (s0.ffilled = false ∧ ({ s0 with fcur := 16 }).fcur ≠ 0 ∧ s0.par.cmdCap ≤ ({ s0 with fcur := 16 }).fcur.toNat) ∧
      FramerInv (sFraming (acq.take 9)) ∧ ∃ t, exec (.fwdByte 0x72) (sFraming (acq.take 9)) = .next t :=
  ⟨by decide, framerInv_nine, _, rfl⟩

theorem witness_EachFwdByteHasOneOutcome :
    (∃ t, exec (.fwdByte 0xF0) (sFraming (hello.take 4)) = .next t) ∧ (∃ t, exec (.fwdByte 0xAA) s0 = .next t) ∧
      (∃ t, exec (.fwdByte 0xAA) (sFraming [0xAA]) = .next t) ∧ ∃ t, exec (.fwdByte 0xAA) sFilled = .next t :=
  ⟨⟨_, rfl⟩, ⟨_, rfl⟩, ⟨_, rfl⟩, _, rfl⟩

theorem witness_FramerSharesNothingWithTheBuilder :
    writerOf (.frameHello 0x10) = .fwdByte ∧ ∃ t, exec (.frameHello 0x10) s0 = .next t := ⟨rfl, _, rfl⟩

theorem witness_FwdDrainHandsOverTheFrame : s0.ffilled = false ∧ FramerInv sFilled ∧ sFilled.ffilled = true :=
  ⟨rfl, framerInv_filled, rfl⟩

theorem witness_DispatchFramesAreRecognised :
    idleFramer s0 ∧ dispatchFrame (.frameHello 0x10) = some (.hello, 0x10, []) ∧
      dispatchFrame (.frameAcqXyz 0x01 ⟨0x1234, 2, 1, 0⟩) = some (.acqXyz, 0x01, [0x34, 0x12, 2, 1, 0]) := by decide

theorem witness_OtherFramesAreDiscarded :
    idleFramer s0 ∧ unrecognisedFrame (.frameGetSpectrum 0x10 []) = some (.getSpectrum, 0x10, []) ∧
      (∀ b ∈ 0x10#8 :: [] ++ [checksum8 ([s0.par.prefix0, s0.par.prefix1, codeValue s0.par .getSpectrum, 0x10] ++ [])],
        b ≠ s0.par.prefix0) := by decide

theorem witness_FramesRelayedWhileFilledAreLost :
    sFilled.ffilled = true ∧ dispatchFrame (.frameStandby 0x10) = some (.standby, 0x10, []) ∧
      unrecognisedFrame (.frameUnknown 0x10 [1]) = some (.unknown, 0x10, [1]) := by decide

theorem witness_FramerResynchronises :
    idleFramer s0 ∧ (0xAA#8) ≠ s0.par.prefix1 ∧ dispatchFrame (.frameHello 0x10) = some (.hello, 0x10, []) := by decide

theorem witness_RelayedFrameIsTransmittedUnchanged :
    idleFramer s0 ∧ dispatchFrame (.frameGetSensorId 0x07) = some (.getSensorId, 0x07, []) := by decide

theorem witness_StepKeepsTheInvariant :
    BlockInv sBuilt ∧ (∃ t, step sBuilt = .next t) ∧ BlockInv sFilled ∧ ∃ t, step (sFilled) = .next t :=
  ⟨blockInv_built, ⟨_, rfl⟩, blockInv_filled, _, rfl⟩

/-- Operations that read a buffer, in a state where it is written, and one that reads nothing. -/
theorem witness_EveryInstructionRuns :
    BlockInv sBuilt ∧ ReadsWritten sBuilt .build ∧ ReadsWritten sBuilt (.regRead 0x104) ∧
      ReadsWritten sBuilt (.regWrite 0x003 5) ∧ ReadsWritten sBuilt .xmit ∧ BlockInv sFilled ∧
      ReadsWritten sFilled .fwdDrain := by
  refine ⟨blockInv_built, ?_, (by decide : written sBuilt.cmd 4), fun h => absurd h (by decide), trivial, blockInv_filled,
    trivial⟩
  intro _ _ i h4 hi
  have : (sBuilt.argL).toNat = 5 := rfl
  omega

end Sys2Proof.Tests
end

section
/-! The scope of the model (00_scope.md): which parameter sets power on. -/

namespace Sys2Proof.Proofs

open Sys2Proof.Machine

/-- R10 (a) to (d) as the spec lists them; (e) asks nothing of the prefixes. -/
theorem legal_iff (p : Params) :
    p.legal = true ↔ p.functionCodes.Pairwise (· ≠ ·) ∧ 10 ≤ p.cmdCap ∧ p.cmdCap ≤ 255 ∧ 5 ≤ p.retCap ∧
      p.retCap ≤ 1024 ∧ 5 ≤ p.rStandby ∧ p.rStandby ≤ p.retCap := by
  simp only [Params.legal, decide_eq_true_eq, List.nodup_iff_pairwise_ne, and_assoc]

theorem powerOn_of_legal {p : Params} (h : p.legal = true) :
    State.powerOn p = .next (State.resetWith { params := p, legal := h }) := dif_pos h

theorem powerOn_of_not_legal {p : Params} (h : ¬ p.legal = true) :
    State.powerOn p = .refused .illegalParameters := dif_neg h

@[simp] theorem resetWith_cfg (c : LegalParams) : (State.resetWith c).cfg = c := rfl

@[simp] theorem resetWith_par (c : LegalParams) : (State.resetWith c).par = c.params := rfl

/-- Settles O7: R10's list is the model's check (`legal_iff`), and power-on branches on that check alone. -/
theorem powerOnRefusesIllegalParameters : Obligations.PowerOnRefusesIllegalParameters := by
  intro p obeys
  have legal_iff_obeys : p.legal = true ↔ obeys := legal_iff p
  constructor
  · intro hobeys
    have hlegal := legal_iff_obeys.mpr hobeys
    exact ⟨_, powerOn_of_legal hlegal, resetWith_par _, congrArg State.resetWith (resetWith_cfg _).symm⟩
  · intro hbreaks
    exact powerOn_of_not_legal (mt legal_iff_obeys.mp hbreaks)

end Sys2Proof.Proofs
end

section
/-! The checksum functions and the checksum unit (40_checksum.md). -/

namespace Sys2Proof.Proofs

open Sys2Proof.Machine Sys2Proof.Laws

/-! `Sum8` (R120). -/

@[simp] theorem sum8_nil : sum8 [] = 0 := rfl

@[simp] theorem sum8_cons (b : Byte) (bs : List Byte) : sum8 (b :: bs) = b + sum8 bs := rfl

/-- `Sum8` is the library's list sum in `Byte`, so the library's facts about sums hold of it. -/
theorem sum8_eq_sum (bs : List Byte) : sum8 bs = bs.sum := by
  induction bs with
  | nil => rfl
  | cons b bs ih => rw [sum8_cons, ih, List.sum_cons]

/-- `Sum8` computed in `Nat`, reduced once at the end (R120). -/
theorem sum8_toNat (bs : List Byte) : (sum8 bs).toNat = (bs.map BitVec.toNat).sum % 256 := by
  induction bs with
  | nil => rfl
  | cons b bs ih =>
    rw [sum8_cons, BitVec.toNat_add, ih, List.map_cons, List.sum_cons, Nat.add_mod_mod]

/-- "the order of the bytes does not change the result" (R120). -/
theorem sum8_perm {bs cs : List Byte} (h : bs.Perm cs) : sum8 bs = sum8 cs := by
  rw [sum8_eq_sum, sum8_eq_sum, h.sum_eq]

theorem sum8_replicate_zero (n : Nat) : sum8 (List.replicate n 0) = 0 := by
  rw [sum8_eq_sum, List.sum_replicate, smul_zero]

/-- The sum with one byte set apart. -/
theorem sum8_split (l r : List Byte) (b : Byte) : sum8 (l ++ b :: r) = b + sum8 (l ++ r) := by
  rw [sum8_perm List.perm_middle, sum8_cons]

/-! `Checksum8` (R121). -/

theorem checksum8_eq_neg (bs : List Byte) : checksum8 bs = -sum8 bs := rfl

theorem checksum8_toNat (bs : List Byte) : (checksum8 bs).toNat = (256 - (sum8 bs).toNat) % 256 := by
  rw [checksum8_eq_neg, BitVec.toNat_neg]

/-- Settles O17. 0x80 is its own negation in 8 bits, which `decide` evaluates. -/
theorem checksumIsTheNegatedModularSum : Obligations.ChecksumIsTheNegatedModularSum := by
  intro bs
  refine ⟨sum8_toNat bs, checksum8_toNat bs, fun cs h => (sum8_perm h).symm, ?_, ?_⟩
  · rw [checksum8_eq_neg]
    exact neg_eq_zero
  · intro h
    rw [checksum8_eq_neg, h]
    decide

/-! `Valid8` (R122). -/

theorem valid8_iff (bs : List Byte) : valid8 bs = true ↔ sum8 bs = 0 := beq_iff_eq

theorem valid8_iff_modularSum (bs : List Byte) : valid8 bs = true ↔ (bs.map BitVec.toNat).sum % 256 = 0 := by
  rw [valid8_iff, ← sum8_toNat]
  exact BitVec.toNat_inj.symm

/-- The verdict depends on the sum alone. -/
theorem valid8_congr {bs cs : List Byte} (h : sum8 bs = sum8 cs) : valid8 bs = valid8 cs := by
  rw [valid8, valid8, h]

/-- A last byte makes a frame valid exactly when it is the checksum of the bytes before it. -/
theorem valid8_append_singleton_iff (bs : List Byte) (k : Byte) : valid8 (bs ++ [k]) = true ↔ k = checksum8 bs := by
  rw [valid8_iff, sum8_append, sum8_cons, sum8_nil, add_zero, checksum8_eq_neg]
  exact ⟨eq_neg_of_add_eq_zero_right, fun h => h ▸ add_neg_cancel _⟩

/-- Settles O18. -/
theorem appendedChecksumValidates : Obligations.AppendedChecksumValidates := fun bs =>
  (valid8_append_singleton_iff bs _).mpr rfl

/-- R124 (a): the other bytes fix the byte of a valid frame. -/
theorem byte_eq_of_valid8 {l r : List Byte} {b b' : Byte} (h : valid8 (l ++ b :: r) = true)
    (h' : valid8 (l ++ b' :: r) = true) : b' = b := by
  rw [valid8_iff, sum8_split] at h h'
  exact add_right_cancel (h'.trans h.symm)

/-- R124 (b): what one byte gains and another loses cancels in the sum. -/
theorem sum8_compensated (l m r : List Byte) (b c d : Byte) :
    sum8 (l ++ (b + d) :: m ++ (c - d) :: r) = sum8 (l ++ b :: m ++ c :: r) := by
  simp only [sum8_append, sum8_cons]
  abel

/-- Settles O19: each part is a fact about `Sum8`, read through `valid8_iff`. -/
theorem validationIsTheModularSum : Obligations.ValidationIsTheModularSum := by
  refine ⟨valid8_iff_modularSum, ?changed, ?compensated, ?permuted, ?zero, ?last⟩
  case changed =>
    intro l r b b' hvalid hne
    exact Bool.eq_false_iff.mpr fun hvalid' => hne (byte_eq_of_valid8 hvalid hvalid')
  case compensated => exact fun l m r b c d => valid8_congr (sum8_compensated l m r b c d)
  case permuted => exact fun bs cs h => valid8_congr (sum8_perm h)
  case zero => exact fun n => (valid8_iff _).mpr (sum8_replicate_zero n)
  case last => exact fun bs k => (valid8_append_singleton_iff bs k).mp

/-! The accumulator (R125) and its bit of `STATUS` (R31). -/

theorem bitsValue_testBit (bs : List Bool) (i : Nat) : (bitsValue bs).testBit i = bs.getD i false := by
  induction bs generalizing i with
  | nil => simp [bitsValue]
  | cons b bs ih =>
    cases i with
    | zero => cases b <;> simp [bitsValue]
    | succ i =>
      have half : (b.toNat + 2 * bitsValue bs) / 2 = bitsValue bs := by
        have := b.toNat_le
        omega
      rw [bitsValue, Nat.testBit_succ, half, ih, List.getD_cons_succ]

theorem statusByte_getLsbD (s : State) {i : Nat} (hi : i < 8) :
    (statusByte s).getLsbD i = (statusBits s).getD i false := by
  rw [statusByte, BitVec.getLsbD_ofNat, decide_eq_true hi, Bool.true_and, bitsValue_testBit]

theorem statusByte_csZero (s : State) : (statusByte s).getLsbD 5 = csZero s :=
  statusByte_getLsbD s (by decide)

theorem exec_csClr (s : State) : exec .csClr s = .next { s with csAcc := 0x00, err := 0x00 } := rfl

/-- Settles O21. -/
theorem checksumClearZeroesTheAccumulator : Obligations.ChecksumClearZeroesTheAccumulator := by
  intro s
  refine ⟨_, exec_csClr s, rfl, ?csZero, ?csChk, ?again⟩
  case csZero => exact statusByte_csZero _
  case csChk => exact BitVec.neg_zero 8
  case again => exact exec_csClr _

/-! Independence of the accumulator (R128). -/

/-- The state with another value in `CS_ACC`. -/
def withCsAcc (v : Byte) (s : State) : State := { s with csAcc := v }

@[simp] theorem withCsAcc_csAcc (v : Byte) (s : State) : (withCsAcc v s).csAcc = v := rfl

/-- The operation commutes with a change of `CS_ACC`: it takes nothing from there, and leaves there what it finds. -/
def IgnoresCsAcc (op : State → Host.Outcome State Fault Refusal) : Prop :=
  ∀ (v : Byte) (s : State), op (withCsAcc v s) = afterNext (op s) fun t => .next (withCsAcc v t)

section
variable {op : State → Host.Outcome State Fault Refusal} {s t : State} {f : Fault}

theorem IgnoresCsAcc.next (h : IgnoresCsAcc op) (hst : op s = .next t) (v : Byte) :
    op (withCsAcc v s) = .next (withCsAcc v t) := by
  rw [h v s, hst, afterNext_of_next]

theorem IgnoresCsAcc.fault (h : IgnoresCsAcc op) (hs : op s = .fault f) (v : Byte) : op (withCsAcc v s) = .fault f := by
  rw [h v s, hs, afterNext]

/-- An operation that commutes with every change of `CS_ACC` keeps it: take the change to the value it already has. -/
theorem IgnoresCsAcc.csAcc_eq (h : IgnoresCsAcc op) (hst : op s = .next t) : t.csAcc = s.csAcc := by
  have unchanged : op s = .next (withCsAcc s.csAcc t) := h.next hst s.csAcc
  rw [hst, Host.Outcome.next.injEq] at unchanged
  rw [unchanged, withCsAcc_csAcc]

end

/-! What follows an outcome follows each branch of it, and what is done with a buffer's bytes. -/

section
variable (g : State → Host.Outcome State Fault Refusal)

theorem afterNext_ite (c : Prop) [Decidable c] (x y : Host.Outcome State Fault Refusal) :
    afterNext (if c then x else y) g = if c then afterNext x g else afterNext y g :=
  apply_ite (afterNext · g) c x y

theorem afterNext_withByte (b : Buffer) (m : Memory) (a : Nat) (k : Byte → Host.Outcome State Fault Refusal) :
    afterNext (withByte b m a k) g = withByte b m a fun v => afterNext (k v) g := by
  unfold withByte
  cases Memory.read m a <;> rfl

theorem afterNext_withBytes (b : Buffer) (m : Memory) (a n : Nat) (k : List Byte → Host.Outcome State Fault Refusal) :
    afterNext (withBytes b m a n k) g = withBytes b m a n fun vs => afterNext (k vs) g := by
  unfold withBytes
  cases Memory.readRange m a n <;> rfl

end

/-! The builder. Once the change of `CS_ACC` stands at the end of each branch, both sides agree by computation. -/

theorem execBuild_ignoresCsAcc : IgnoresCsAcc execBuild := by
  intro v s
  simp only [execBuild, afterNext_ite, afterNext_withBytes]
  rfl

theorem execValidate_ignoresCsAcc : IgnoresCsAcc execValidate := by
  intro v s
  simp only [execValidate, afterNext_ite, afterNext_withBytes]
  rfl

theorem execSynthStandby_ignoresCsAcc : IgnoresCsAcc execSynthStandby := fun _ _ => rfl

/-! The framer. -/

theorem idleByte_withCsAcc (b v : Byte) (s : State) : idleByte b (withCsAcc v s) = withCsAcc v (idleByte b s) := by
  unfold idleByte
  rw [apply_ite (withCsAcc v)]
  rfl

theorem completeFrame_ignoresCsAcc (n : Nat) : IgnoresCsAcc fun s => completeFrame s n := by
  intro v s
  simp only [completeFrame, afterNext_ite, afterNext_withBytes]
  rfl

/-- The last check of `checkFrame`, by the length that the frame's code gives it (R195, R196). -/
def checkLength (s : State) : Option Nat → Host.Outcome State Fault Refusal
  | none => .next (resetFramer s .resetUnrecognized)
  | some n => if s.fcur.toNat = n then completeFrame s n else .next (s.emit (.fwd .accept))

theorem checkFrame_eq (s : State) :
    checkFrame s = withByte .fbuf s.fbuf 1 fun second =>
      if second ≠ s.par.prefix1 then .next (resetFramer s .resetDesync)
      else if s.fcur.toNat < 3 then .next (s.emit (.fwd .accept))
      else withByte .fbuf s.fbuf 2 fun fc => checkLength s (fwdLen s.par fc) := rfl

theorem checkLength_ignoresCsAcc (len : Option Nat) : IgnoresCsAcc fun s => checkLength s len := by
  intro v s
  cases len with
  | none => rfl
  | some n =>
    simp only [checkLength, afterNext_ite, ← completeFrame_ignoresCsAcc n v s]
    rfl

theorem checkFrame_ignoresCsAcc : IgnoresCsAcc checkFrame := by
  intro v s
  simp only [checkFrame_eq, afterNext_ite, afterNext_withByte, ← checkLength_ignoresCsAcc _ v s]
  rfl

theorem framedByte_ignoresCsAcc (b : Byte) : IgnoresCsAcc (framedByte b) := fun v s =>
  checkFrame_ignoresCsAcc v (appendByte b s)

theorem execFwdByte_ignoresCsAcc (b : Byte) : IgnoresCsAcc (execFwdByte b) := by
  intro v s
  simp only [execFwdByte, framerByte, afterNext_ite, idleByte_withCsAcc, ← framedByte_ignoresCsAcc b v s]
  rfl

/-- Settles O22: each of the four operations ignores `CS_ACC`, and all three clauses follow from that. -/
theorem builderAndFramerDoNotTouchTheAccumulator : Obligations.BuilderAndFramerDoNotTouchTheAccumulator := by
  intro i s v b hi
  have ignores : IgnoresCsAcc (exec i) := by
    simp only [List.mem_cons, List.not_mem_nil, or_false] at hi
    obtain rfl | rfl | rfl | rfl := hi
    · exact execBuild_ignoresCsAcc
    · exact execValidate_ignoresCsAcc
    · exact execSynthStandby_ignoresCsAcc
    · exact execFwdByte_ignoresCsAcc b
  exact ⟨fun t hst => ⟨ignores.csAcc_eq hst, ignores.next hst v⟩, fun f hs => ignores.fault hs v⟩

end Sys2Proof.Proofs
end

section
/-! Byte sequences in a buffer (R13): how the ranges that are read and the sequences that are written fit together. -/

namespace Sys2Proof.Proofs

open Sys2Proof.Machine Sys2Proof.Laws Sys2Proof.Safety

/-- Outside the written sequence a buffer reads as before. -/
theorem read_writes_outside (m : Memory) {a i : Nat} {vs : List Byte} (h : i < a ∨ a + vs.length ≤ i) :
    Memory.read (Memory.writes m a vs) i = Memory.read m i := by
  rw [read_writes, if_neg (by omega)]

/-- Inside the written sequence every byte is written. -/
theorem written_writes (m : Memory) {a i : Nat} {vs : List Byte} (hlo : a ≤ i) (hhi : i < a + vs.length) :
    written (Memory.writes m a vs) i := by
  rw [written, read_writes, if_pos ⟨hlo, hhi⟩, isSome_getElem?]
  omega

/-- `readRange_writes`, with the length in the form that the reader has it. -/
theorem readRange_writes_of_length (m : Memory) (a : Nat) {n : Nat} {vs : List Byte} (h : vs.length = n) :
    Memory.readRange (Memory.writes m a vs) a n = .ok vs :=
  h ▸ readRange_writes m a vs

/-- A range read in two parts. -/
theorem readRange_append {m : Memory} {a n k : Nat} {xs ys : List Byte} (hxs : Memory.readRange m a n = .ok xs)
    (hys : Memory.readRange m (a + n) k = .ok ys) : Memory.readRange m a (n + k) = .ok (xs ++ ys) := by
  obtain ⟨xs_length, xs_read⟩ := (readRange_ok_iff n m a xs).mp hxs
  obtain ⟨ys_length, ys_read⟩ := (readRange_ok_iff k m (a + n) ys).mp hys
  refine (readRange_ok_iff _ _ _ _).mpr ⟨by simp [xs_length, ys_length], fun i hi => ?_⟩
  by_cases hin : i < n
  · rw [xs_read i hin, List.getElem?_append_left (by omega)]
  · rw [List.getElem?_append_right (by omega), xs_length, ← ys_read (i - n) (by omega)]
    congr 1
    omega

/-- A shorter range read holds the first bytes of the longer one. -/
theorem readRange_take {m : Memory} {a n k : Nat} {vs : List Byte} (h : Memory.readRange m a n = .ok vs)
    (hk : k ≤ n) :
    Memory.readRange m a k = .ok (vs.take k) := by
  obtain ⟨vs_length, vs_read⟩ := (readRange_ok_iff n m a vs).mp h
  refine (readRange_ok_iff _ _ _ _).mpr ⟨by simp [vs_length, hk], fun i hi => ?_⟩
  rw [vs_read i (by omega), List.getElem?_take_of_lt hi]

/-- A byte written right after a range extends it. -/
theorem readRange_write_end {m : Memory} {a n : Nat} {vs : List Byte} (h : Memory.readRange m a n = .ok vs) (v : Byte) :
    Memory.readRange (Memory.write m (a + n) v) a (n + 1) = .ok (vs ++ [v]) := by
  have before : Memory.readRange (Memory.write m (a + n) v) a n = .ok vs :=
    (readRange_congr n a fun k hk => read_write_other m v (by omega)).trans h
  exact readRange_append before (by simp [Memory.readRange])

theorem readRange_four_iff (m : Memory) (b₀ b₁ b₂ b₃ : Byte) :
    Memory.readRange m 0 4 = .ok [b₀, b₁, b₂, b₃] ↔
      Memory.read m 0 = some b₀ ∧ Memory.read m 1 = some b₁ ∧ Memory.read m 2 = some b₂ ∧ Memory.read m 3 = some b₃ := by
  rw [readRange_ok_iff]
  constructor
  · rintro ⟨-, reads⟩
    exact ⟨reads 0 (by decide), reads 1 (by decide), reads 2 (by decide), reads 3 (by decide)⟩
  · rintro ⟨h₀, h₁, h₂, h₃⟩
    refine ⟨rfl, fun k hk => ?_⟩
    interval_cases k
    · exact h₀
    · exact h₁
    · exact h₂
    · exact h₃

end Sys2Proof.Proofs
end

section
/-! The command side of the packet builder (41_packet_builder.md R140 to R145, R155). -/

namespace Sys2Proof.Proofs

open Sys2Proof.Machine Sys2Proof.Laws Sys2Proof.Safety

/-! `BUILD` (R140, R141). -/

theorem exec_build_of_badLength {s : State} (h : s.argL.toNat < 5 ∨ s.par.cmdCap < s.argL.toNat) :
    exec .build s = .next { s with err := 0x10 } := if_pos h

theorem exec_build_of_length {s : State} (hlo : 5 ≤ s.argL.toNat) (hhi : s.argL.toNat ≤ s.par.cmdCap) :
    exec .build s = withBytes .cmd (headedCmd s) 0 (s.argL.toNat - 1) fun body =>
      .next ((trackCommand s (Memory.write (headedCmd s) (s.argL.toNat - 1) (checksum8 body))).report .none) :=
  if_neg (by omega)

/-- The header of `BUILD` stands in front and leaves the rest of `CMD`. -/
theorem read_headedCmd_of_ge (s : State) {j : Nat} (h : 4 ≤ j) : Memory.read (headedCmd s) j = Memory.read s.cmd j :=
  read_writes_outside _ (.inr h)

/-- What `BUILD` takes the checksum of: the inserted header and the payload as it stands. -/
theorem readRange_headedCmd {s : State} {payload : List Byte} (hlo : 5 ≤ s.argL.toNat)
    (hpayload : Memory.readRange s.cmd 4 (s.argL.toNat - 5) = .ok payload) :
    Memory.readRange (headedCmd s) 0 (s.argL.toNat - 1) = .ok (frameHeader s.par s.argFc s.argUc ++ payload) := by
  have header : Memory.readRange (headedCmd s) 0 4 = .ok (frameHeader s.par s.argFc s.argUc) :=
    readRange_writes_of_length _ 0 rfl
  have rest : Memory.readRange (headedCmd s) (0 + 4) (s.argL.toNat - 5) = .ok payload :=
    (readRange_congr _ 4 fun k _ => read_headedCmd_of_ge s (by omega)).trans hpayload
  rw [show s.argL.toNat - 1 = 4 + (s.argL.toNat - 5) by omega]
  exact readRange_append header rest

/-- `CMD` after `BUILD` over a written payload: the header inserted, the checksum at `L-1` (R141 steps 1 and 2). -/
def builtCmd (s : State) (payload : List Byte) : Memory :=
  Memory.write (headedCmd s) (s.argL.toNat - 1) (checksum8 (frameHeader s.par s.argFc s.argUc ++ payload))

theorem exec_build_of_payload {s : State} {payload : List Byte} (hlo : 5 ≤ s.argL.toNat)
    (hhi : s.argL.toNat ≤ s.par.cmdCap) (hpayload : Memory.readRange s.cmd 4 (s.argL.toNat - 5) = .ok payload) :
    exec .build s = .next ((trackCommand s (builtCmd s payload)).report .none) := by
  rw [exec_build_of_length hlo hhi, withBytes_of_readRange (readRange_headedCmd hlo hpayload), builtCmd]

/-- The built buffer holds the frame of R90. -/
theorem readRange_builtCmd {s : State} {payload : List Byte} (hlo : 5 ≤ s.argL.toNat)
    (hpayload : Memory.readRange s.cmd 4 (s.argL.toNat - 5) = .ok payload) :
    Memory.readRange (builtCmd s payload) 0 s.argL.toNat = .ok (commandFrame s.par s.argFc s.argUc payload) := by
  have sealed := readRange_write_end (readRange_headedCmd hlo hpayload)
    (checksum8 (frameHeader s.par s.argFc s.argUc ++ payload))
  rwa [Nat.zero_add, Nat.sub_add_cancel (by omega)] at sealed

theorem read_builtCmd_of_ge {s : State} (payload : List Byte) {j : Nat} (hlo : 5 ≤ s.argL.toNat)
    (hj : s.argL.toNat ≤ j) : Memory.read (builtCmd s payload) j = Memory.read s.cmd j := by
  rw [builtCmd, read_write_other _ _ (by omega), read_headedCmd_of_ge s (by omega)]

/-- Settles O29. The bytes are `readRange_builtCmd` and `read_builtCmd_of_ge`; the other fields are `trackCommand`'s. -/
theorem buildInsertsHeaderAndChecksum : Obligations.BuildInsertsHeaderAndChecksum := by
  intro s
  refine ⟨exec_build_of_badLength, fun payload hlo hhi hpayload => ?_⟩
  refine ⟨_, exec_build_of_payload hlo hhi hpayload, ?frame, ?rest, ?backup, rfl, rfl, rfl, rfl, rfl, rfl, rfl⟩
  case frame => exact readRange_builtCmd hlo hpayload
  case rest => exact fun j hj => read_builtCmd_of_ge payload hlo hj
  case backup => exact fun _ => rfl

/-! `PAYLOAD_ACQ` (R143). -/

theorem loByte_eq_extractLsb' (h : Half) : loByte h = h.extractLsb' 0 8 := BitVec.setWidth_eq_extractLsb' (by decide)

theorem hiByte_eq_extractLsb' (h : Half) : hiByte h = h.extractLsb' 8 8 := rfl

theorem exec_payloadAcq (s : State) :
    exec .payloadAcq s =
      .next { s with cmd := Memory.writes s.cmd 4 (acqBytes (acqOperands s)), err := 0x00 } := rfl

/-- The payload of R92 in terms of the operand registers. -/
theorem acqBytes_acqOperands (s : State) :
    acqBytes (acqOperands s) = [s.argIt.extractLsb' 0 8, s.argIt.extractLsb' 8 8, s.argAvg, s.argAe, 0x00] := by
  rw [← loByte_eq_extractLsb', ← hiByte_eq_extractLsb']
  rfl

/-- Settles O32. -/
theorem payloadAcqWritesTheFiveBytes : Obligations.PayloadAcqWritesTheFiveBytes := by
  intro s
  refine ⟨_, exec_payloadAcq s, ?payload, ?rest, rfl, rfl⟩
  case payload =>
    rw [← acqBytes_acqOperands]
    exact readRange_writes_of_length _ _ rfl
  case rest => exact fun j hj => read_writes_outside _ hj

/-! `XMIT` (R144, R145). -/

@[simp] theorem freeBytes_length (start n : Nat) : (freeBytes start n).length = n := by
  rw [freeBytes, List.length_map, List.length_range]

theorem exec_xmit_of_nothing_built {s : State} (h : s.lastL = 0) : exec .xmit s = .next { s with err := 0x10 } :=
  if_pos h

theorem exec_xmit_of_frame {s : State} {frame : List Byte} (hbuilt : s.lastL ≠ 0)
    (hframe : Memory.readRange s.cmd 0 s.lastL.toNat = .ok frame) :
    exec .xmit s = .next { s with
      history := s.history ++ [.tx frame]
      rxCnt := 0
      retSize := 0
      ok := false
      err := 0x00
      cmd := Memory.writes s.cmd 0 (freeBytes s.freeCtr s.lastL.toNat)
      freeCtr := s.freeCtr + s.lastL.toNat } :=
  (if_neg hbuilt).trans (withBytes_of_readRange hframe _)

/-- Settles O33. The sent bytes of `CMD` are overwritten by `LAST_L` free bytes, and no other index is. -/
theorem xmitEmitsTheCommand : Obligations.XmitEmitsTheCommand := by
  intro s frame
  refine ⟨exec_xmit_of_nothing_built, fun hbuilt hframe => ?_⟩
  refine ⟨_, exec_xmit_of_frame hbuilt hframe, rfl, rfl, rfl, rfl, rfl, ?sent, ?rest, rfl⟩
  case sent => exact fun j hj => written_writes _ (Nat.zero_le j) (by simpa using hj)
  case rest => exact fun j hj => read_writes_outside _ (.inr (by simpa using hj))

/-! `RESTORE` (R155), `RET_CLR` (R157) and `RDY_CLR` (R158). -/

theorem exec_restore (s : State) : exec .restore s = .next { s with cmd := s.bak, err := 0x00 } := rfl

theorem exec_retClr (s : State) : exec .retClr s = .next { s with retSize := 0, err := 0x00 } := rfl

theorem exec_rdyClr (s : State) : exec .rdyClr s = .next { s with rdyFlag := false, err := 0x00 } := rfl

/-- Settles O25. -/
theorem clearsAndRestore : Obligations.ClearsAndRestore := by
  intro s
  exact ⟨exec_retClr s, exec_rdyClr s, _, exec_restore s, fun _ => rfl, rfl, rfl⟩

end Sys2Proof.Proofs
end

section
/-! The receive side of the packet builder: received bytes, their validation, and the synthesised Standby answer
(41_packet_builder.md R140, R151 to R156). -/

namespace Sys2Proof.Proofs

open Sys2Proof.Machine Sys2Proof.Laws

/-! `RX_BYTE` (R151). -/

theorem exec_rxByte_of_room {s : State} (b : Byte) (h : s.rxCnt.toNat < s.par.retCap) :
    exec (.rxByte b) s = .next { s with ret := Memory.write s.ret s.rxCnt.toNat b, rxCnt := s.rxCnt + 1 } := if_pos h

theorem exec_rxByte_of_full {s : State} (b : Byte) (h : s.par.retCap ≤ s.rxCnt.toNat) :
    exec (.rxByte b) s = .next s :=
  if_neg (Nat.not_lt.mpr h)

/-- `RX_CNT` counts without wrap-around, since `RET_CAP` is at most 1024 (R10). -/
theorem rxCnt_succ_toNat {s : State} (h : s.rxCnt.toNat < s.par.retCap) : (s.rxCnt + 1).toNat = s.rxCnt.toNat + 1 := by
  have := par_retCap_le s
  bv_omega

/-- Settles O42. -/
theorem rxByteFillsTheReturnBuffer : Obligations.RxByteFillsTheReturnBuffer := by
  intro s b
  refine ⟨fun hroom => ?_, exec_rxByte_of_full b⟩
  exact ⟨_, exec_rxByte_of_room b hroom, rxCnt_succ_toNat hroom, read_write _ _ _, rfl⟩

/-! `VALIDATE` (R152): one equation a verdict, in the order of R153. -/

theorem exec_validate_of_badLength {s : State} (h : s.argR.toNat < 5 ∨ s.par.retCap < s.argR.toNat) :
    exec .validate s = .next { s with err := 0x10, ok := false, retSize := 0 } := if_pos h

theorem exec_validate_of_length {s : State} (hlo : 5 ≤ s.argR.toNat) (hhi : s.argR.toNat ≤ s.par.retCap) :
    exec .validate s =
      if s.rxCnt.toNat < s.argR.toNat then .next (s.failExchange .transportTimeout)
      else withBytes .ret s.ret 0 s.argR.toNat fun frame =>
        if frame.take 4 ≠ frameHeader s.par s.lastFc s.lastUc then .next (s.failExchange .headerMismatch)
        else if sum8 frame ≠ 0 then .next (s.failExchange .checksumMismatch)
        else .next ({ s with retSize := if silentFlag s then 0 else s.argR, ok := true }.report .none) :=
  if_neg (by omega)

theorem exec_validate_of_timeout {s : State} (hlo : 5 ≤ s.argR.toNat) (hhi : s.argR.toNat ≤ s.par.retCap)
    (htimeout : s.rxCnt.toNat < s.argR.toNat) :
    exec .validate s = .next { s with err := 0x03, ok := false, retSize := 0 } :=
  (exec_validate_of_length hlo hhi).trans (if_pos htimeout)

/-- The premises under which `VALIDATE` judges the bytes: a legal length, enough bytes received, all of them written. -/
structure Received (s : State) (frame : List Byte) : Prop where
  lo : 5 ≤ s.argR.toNat
  hi : s.argR.toNat ≤ s.par.retCap
  arrived : s.argR.toNat ≤ s.rxCnt.toNat
  bytes : Memory.readRange s.ret 0 s.argR.toNat = .ok frame

section
variable {s : State} {frame : List Byte}

theorem Received.exec_validate (h : Received s frame) :
    exec .validate s =
      if frame.take 4 ≠ frameHeader s.par s.lastFc s.lastUc then .next (s.failExchange .headerMismatch)
      else if sum8 frame ≠ 0 then .next (s.failExchange .checksumMismatch)
      else .next ({ s with retSize := if silentFlag s then 0 else s.argR, ok := true }.report .none) := by
  rw [exec_validate_of_length h.lo h.hi, if_neg (Nat.not_lt.mpr h.arrived), withBytes_of_readRange h.bytes]

/-- The header check compares the first four bytes of `RET` with the header of the tracked command. -/
theorem Received.header_iff (h : Received s frame) :
    frame.take 4 = frameHeader s.par s.lastFc s.lastUc ↔
      Memory.read s.ret 0 = some s.par.prefix0 ∧ Memory.read s.ret 1 = some s.par.prefix1 ∧
        Memory.read s.ret 2 = some s.lastFc ∧ Memory.read s.ret 3 = some s.lastUc := by
  have first : Memory.readRange s.ret 0 4 = .ok (frame.take 4) := readRange_take h.bytes (Nat.le_of_succ_le h.lo)
  rw [← readRange_four_iff, first, Except.ok.injEq, frameHeader]

theorem Received.exec_validate_of_wrong_header (h : Received s frame)
    (hheader : frame.take 4 ≠ frameHeader s.par s.lastFc s.lastUc) :
    exec .validate s = .next { s with err := 0x02, ok := false, retSize := 0 } :=
  h.exec_validate.trans (if_pos hheader)

theorem Received.exec_validate_of_wrong_sum (h : Received s frame)
    (hheader : frame.take 4 = frameHeader s.par s.lastFc s.lastUc) (hsum : sum8 frame ≠ 0) :
    exec .validate s = .next { s with err := 0x01, ok := false, retSize := 0 } :=
  h.exec_validate.trans ((if_neg (not_not_intro hheader)).trans (if_pos hsum))

theorem Received.exec_validate_of_valid (h : Received s frame)
    (hheader : frame.take 4 = frameHeader s.par s.lastFc s.lastUc) (hsum : sum8 frame = 0) :
    exec .validate s =
      .next { s with retSize := if s.argFlags.getLsbD 1 then 0 else s.argR, ok := true, err := 0x00 } :=
  h.exec_validate.trans ((if_neg (not_not_intro hheader)).trans (if_neg (not_not_intro hsum)))

end

/-- Settles O35: the equation of each verdict, the header read byte by byte through `Received.header_iff`. -/
theorem validateGivesTheFirstVerdict : Obligations.ValidateGivesTheFirstVerdict := by
  intro s
  refine ⟨exec_validate_of_badLength, exec_validate_of_timeout, fun frame hlo hhi harrived hbytes => ?_⟩
  have received : Received s frame := ⟨hlo, hhi, harrived, hbytes⟩
  refine ⟨fun hwrong => ?wrongHeader, fun hheader hsum => ?wrongSum, fun hheader hsum => ?valid⟩
  case wrongHeader => exact received.exec_validate_of_wrong_header (mt received.header_iff.mp hwrong)
  case wrongSum => exact received.exec_validate_of_wrong_sum (received.header_iff.mpr hheader) hsum
  case valid => exact received.exec_validate_of_valid (received.header_iff.mpr hheader) hsum

/-- Settles O28: the first check of each of the three operations. -/
theorem lengthChecksReject : Obligations.LengthChecksReject := by
  intro s
  exact ⟨exec_build_of_badLength, exec_xmit_of_nothing_built, exec_validate_of_badLength⟩

/-! `SYNTH_STANDBY` (R156). -/

theorem exec_synthStandby (s : State) :
    exec .synthStandby s = .next { s with
      ret := Memory.writes s.ret 0 (standbyFrame s.par s.argUc)
      retSize := BitVec.ofNat 16 s.par.rStandby
      ok := true
      err := 0x00 } := rfl

@[simp] theorem standbyFrame_length (c : LegalParams) (uc : Byte) :
    (standbyFrame c.params uc).length = c.params.rStandby := by
  have := rStandby_ge c
  simp only [standbyFrame, commandFrame, sealFrame, frameHeader, List.length_append, List.length_cons, List.length_nil,
    List.length_replicate]
  omega

/-- `R_STANDBY` fits `RET_SIZE`, since it is at most `RET_CAP` (R10). -/
theorem rStandby_toNat (s : State) : (BitVec.ofNat 16 s.par.rStandby).toNat = s.par.rStandby := by
  have := par_rStandby_le s
  have := par_retCap_le s
  rw [BitVec.toNat_ofNat, Nat.mod_eq_of_lt (by omega)]

/-- Settles O34. -/
theorem synthStandbyWritesTheFrame : Obligations.SynthStandbyWritesTheFrame := by
  intro s
  have length : (standbyFrame s.par s.argUc).length = s.par.rStandby := standbyFrame_length s.cfg s.argUc
  refine ⟨_, exec_synthStandby s, ?frame, ?rest, rStandby_toNat s, rfl, rfl, rfl⟩
  case frame => exact readRange_writes_of_length _ 0 length
  case rest => exact fun j hj => read_writes_outside _ (.inr (by omega))

end Sys2Proof.Proofs
end

section
/-! The fetch decision (41_packet_builder.md R159, R160). -/

namespace Sys2Proof.Proofs

open Sys2Proof.Machine Sys2Proof.Laws

/-! The fetch mapping. -/

/-- The two acquisitions and the sentinel have three codes (R10(a)). -/
theorem acquisition_codes_distinct (c : LegalParams) :
    c.params.fcAcqXyz ≠ c.params.fcAcqSpectrum ∧ c.params.fcUnknown ≠ c.params.fcAcqSpectrum ∧
      c.params.fcUnknown ≠ c.params.fcAcqXyz := by
  have nodup := codes_nodup c
  simp only [Params.functionCodes, List.nodup_cons, List.mem_cons, not_or] at nodup
  grind

theorem fetchCode_acqSpectrum (p : Params) : fetchCode p p.fcAcqSpectrum = some p.fcGetSpectrum := if_pos rfl

theorem fetchCode_acqXyz (c : LegalParams) : fetchCode c.params c.params.fcAcqXyz = some c.params.fcGetXyz :=
  (if_neg (acquisition_codes_distinct c).1).trans (if_pos rfl)

theorem fetchCode_other {p : Params} {fc : Byte} (hspectrum : fc ≠ p.fcAcqSpectrum) (hxyz : fc ≠ p.fcAcqXyz) :
    fetchCode p fc = none :=
  (if_neg hspectrum).trans (if_neg hxyz)

theorem fetchCode_unknown (c : LegalParams) : fetchCode c.params c.params.fcUnknown = none := by
  obtain ⟨-, hspectrum, hxyz⟩ := acquisition_codes_distinct c
  exact fetchCode_other hspectrum hxyz

/-- Settles O37. -/
theorem fetchMapsTheTwoAcquisitions : Obligations.FetchMapsTheTwoAcquisitions := by
  intro c fc
  exact ⟨fetchCode_acqSpectrum c.params, fetchCode_acqXyz c, fetchCode_other, fetchCode_unknown c⟩

/-! `POLL` (R159). -/

theorem exec_poll (s : State) : exec .poll s = .next ((loadFetch s (dueFetch s)).report .none) := rfl

theorem dueFetch_of_fetch {s : State} {fc : Byte} (hready : s.rdyFlag = true)
    (hfetch : fetchCode s.par s.asyncFc = some fc) : dueFetch s = some fc :=
  (if_pos hready).trans hfetch

theorem dueFetch_of_no_fetch {s : State} (h : s.rdyFlag = false ∨ fetchCode s.par s.asyncFc = none) :
    dueFetch s = none := by
  obtain hnot | hnone := h
  · rw [dueFetch, hnot, if_neg Bool.false_ne_true]
  · rw [dueFetch, hnone, ite_self]

/-- Settles O38. -/
theorem pollDecidesTheFetch : Obligations.PollDecidesTheFetch := by
  intro s
  constructor
  · intro fc hready hfetch
    rw [exec_poll, dueFetch_of_fetch hready hfetch]
    rfl
  · intro hnot
    rw [exec_poll, dueFetch_of_no_fetch hnot]
    rfl

end Sys2Proof.Proofs
end

section
/-! The framer's length lookup (42_forward_framer.md R190). -/

namespace Sys2Proof.Proofs

open Sys2Proof.Machine Sys2Proof.Laws

/-! The function codes by the length that the lookup gives them (`fwdLen_eq_ite`). -/

/-- The codes of the 5-byte commands. -/
def shortCodes (p : Params) : List Byte := [p.fcHello, p.fcStandby, p.fcGetSensorId, p.fcGetWavelength]

/-- The codes of the 10-byte commands. -/
def acquisitionCodes (p : Params) : List Byte := [p.fcAcqSpectrum, p.fcAcqXyz]

/-- The codes that the lookup does not know. -/
def unrecognisedCodes (p : Params) : List Byte := [p.fcGetSpectrum, p.fcGetXyz, p.fcUnknown]

/-- The three classes are R9's function codes, two of them exchanged. -/
theorem functionCodes_perm (p : Params) :
    p.functionCodes.Perm (shortCodes p ++ (acquisitionCodes p ++ unrecognisedCodes p)) :=
  ((List.Perm.swap _ _ _).cons _).append_left (shortCodes p)

/-- No code is in two classes (R10(a)). -/
theorem code_classes_disjoint (c : LegalParams) :
    (shortCodes c.params).Disjoint (acquisitionCodes c.params) ∧
      (shortCodes c.params).Disjoint (unrecognisedCodes c.params) ∧
      (acquisitionCodes c.params).Disjoint (unrecognisedCodes c.params) := by
  have nodup := (functionCodes_perm c.params).nodup_iff.mp (codes_nodup c)
  have short_disjoint := List.disjoint_append_right.mp (List.disjoint_of_nodup_append nodup)
  exact ⟨short_disjoint.1, short_disjoint.2, List.disjoint_of_nodup_append nodup.of_append_right⟩

theorem fwdLen_eq_ite (p : Params) (fc : Byte) :
    fwdLen p fc = if fc ∈ shortCodes p then some 5 else if fc ∈ acquisitionCodes p then some 10 else none := by
  simp only [fwdLen, shortCodes, acquisitionCodes, List.mem_cons, List.not_mem_nil, or_false]

theorem fwdLen_eq_five_iff (p : Params) (fc : Byte) : fwdLen p fc = some 5 ↔ fc ∈ shortCodes p := by
  rw [fwdLen_eq_ite]
  split_ifs <;> simp [*]

/-- The lookup tries the short codes first, so that this needs R10(a). -/
theorem fwdLen_eq_ten_iff (c : LegalParams) (fc : Byte) :
    fwdLen c.params fc = some 10 ↔ fc ∈ acquisitionCodes c.params := by
  rw [fwdLen_eq_ite]
  split_ifs with hshort hacq
  · have not_acquisition : fc ∉ acquisitionCodes c.params := fun hacq => (code_classes_disjoint c).1 hshort hacq
    simp [not_acquisition]
  · simp [hacq]
  · simp [hacq]

theorem fwdLen_eq_none_iff (p : Params) (fc : Byte) :
    fwdLen p fc = none ↔ fc ∉ shortCodes p ++ acquisitionCodes p := by
  rw [fwdLen_eq_ite, List.mem_append]
  split_ifs <;> simp [*]

theorem fwdLen_of_unrecognised {c : LegalParams} {fc : Byte} (h : fc ∈ unrecognisedCodes c.params) :
    fwdLen c.params fc = none := by
  obtain ⟨-, short_disjoint, acquisition_disjoint⟩ := code_classes_disjoint c
  rw [fwdLen_eq_none_iff, List.mem_append]
  exact not_or.mpr ⟨fun hshort => short_disjoint hshort h, fun hacq => acquisition_disjoint hacq h⟩

/-- Settles O45. The lists of R190 are `shortCodes` and `acquisitionCodes`; R10(a) keeps the other codes out of both. -/
theorem fwdLenIsTheTable : Obligations.FwdLenIsTheTable := by
  intro c fc
  refine ⟨fwdLen_eq_five_iff c.params fc, fwdLen_eq_ten_iff c fc, fwdLen_eq_none_iff c.params fc, ?_, ?_, ?_⟩ <;>
    exact fwdLen_of_unrecognised (by simp [unrecognisedCodes])

end Sys2Proof.Proofs
end

section
/-! One byte fed to the framer (42_forward_framer.md R191 to R197): one equation a branch. -/

namespace Sys2Proof.Proofs

open Sys2Proof.Machine Sys2Proof.Laws Sys2Proof.Safety

section
variable {s : State} {b : Byte}

/-! Before the byte is appended (R192, R193, R197). -/

theorem exec_fwdByte_of_filled (h : s.ffilled = true) :
    exec (.fwdByte b) s = .next (s.emit (.fwd .dropBackpressure)) := if_pos h

theorem exec_fwdByte_of_not_filled (h : s.ffilled = false) :
    exec (.fwdByte b) s =
      if s.fcur = 0 then .next (idleByte b s)
      else if s.par.cmdCap ≤ s.fcur.toNat then .next (s.emit (.fwd .dropFull))
      else framedByte b s := if_neg (ne_true_of_eq_false h)

theorem exec_fwdByte_of_no_start (hfilled : s.ffilled = false) (hidle : s.fcur = 0) (hb : b ≠ s.par.prefix0) :
    exec (.fwdByte b) s = .next (s.emit (.fwd .dropIdle)) := by
  rw [exec_fwdByte_of_not_filled hfilled, if_pos hidle, idleByte, if_pos hb]

theorem exec_fwdByte_of_start (hfilled : s.ffilled = false) (hidle : s.fcur = 0) (hb : b = s.par.prefix0) :
    exec (.fwdByte b) s = .next ((appendByte b s).emit (.fwd .accept)) := by
  rw [exec_fwdByte_of_not_filled hfilled, if_pos hidle, idleByte, if_neg (not_not_intro hb), appendByte, hidle]
  rfl

theorem exec_fwdByte_of_no_room (hfilled : s.ffilled = false) (hprogress : s.fcur ≠ 0)
    (hfull : s.par.cmdCap ≤ s.fcur.toNat) : exec (.fwdByte b) s = .next (s.emit (.fwd .dropFull)) := by
  rw [exec_fwdByte_of_not_filled hfilled, if_neg hprogress, if_pos hfull]

theorem exec_fwdByte_of_progress (hfilled : s.ffilled = false) (hprogress : s.fcur ≠ 0)
    (hroom : s.fcur.toNat < s.par.cmdCap) : exec (.fwdByte b) s = checkFrame (appendByte b s) := by
  rw [exec_fwdByte_of_not_filled hfilled, if_neg hprogress, if_neg (Nat.not_le.mpr hroom), framedByte]

/-! The checks on the frame with the byte appended (R194 to R196). -/

theorem checkFrame_of_desync {x : Byte} (hread : Memory.read s.fbuf 1 = some x) (hx : x ≠ s.par.prefix1) :
    checkFrame s = .next (resetFramer s .resetDesync) := by
  rw [checkFrame_eq, withByte_of_read hread, if_pos hx]

theorem checkFrame_of_prefix (hread : Memory.read s.fbuf 1 = some s.par.prefix1) (hshort : s.fcur.toNat < 3) :
    checkFrame s = .next (s.emit (.fwd .accept)) := by
  rw [checkFrame_eq, withByte_of_read hread, if_neg (not_not_intro rfl), if_pos hshort]

theorem checkFrame_of_code {fc : Byte} (hread : Memory.read s.fbuf 1 = some s.par.prefix1) (hthree : 3 ≤ s.fcur.toNat)
    (hcode : Memory.read s.fbuf 2 = some fc) : checkFrame s = checkLength s (fwdLen s.par fc) := by
  rw [checkFrame_eq, withByte_of_read hread, if_neg (not_not_intro rfl), if_neg (Nat.not_lt.mpr hthree),
    withByte_of_read hcode]

theorem checkLength_of_short {n : Nat} (h : s.fcur.toNat ≠ n) :
    checkLength s (some n) = .next (s.emit (.fwd .accept)) := if_neg h

theorem checkLength_of_complete {n : Nat} {frame : List Byte} (h : s.fcur.toNat = n)
    (hframe : Memory.readRange s.fbuf 0 n = .ok frame) :
    checkLength s (some n) =
      if sum8 frame = 0 then .next (fillFramer s) else .next (resetFramer s .resetChecksum) :=
  (if_pos h).trans (withBytes_of_readRange hframe _)

/-! The appended byte (R191). -/

theorem read_appendByte (b : Byte) (s : State) (j : Nat) :
    Memory.read (appendByte b s).fbuf j = if j = s.fcur.toNat then some b else Memory.read s.fbuf j :=
  read_write _ _ _ _

theorem read_appendByte_at {j : Nat} (h : s.fcur.toNat = j) : Memory.read (appendByte b s).fbuf j = some b := by
  rw [read_appendByte, if_pos h.symm]

theorem read_appendByte_below {j : Nat} (h : j < s.fcur.toNat) :
    Memory.read (appendByte b s).fbuf j = Memory.read s.fbuf j := by
  rw [read_appendByte, if_neg h.ne]

/-- The frame with the byte appended. -/
theorem readRange_appendByte {body : List Byte} (h : Memory.readRange s.fbuf 0 s.fcur.toNat = .ok body) :
    Memory.readRange (appendByte b s).fbuf 0 (s.fcur.toNat + 1) = .ok (body ++ [b]) := by
  have extended := readRange_write_end h b
  rwa [Nat.zero_add] at extended

@[simp] theorem appendByte_par (b : Byte) (s : State) : (appendByte b s).par = s.par := rfl

theorem appendByte_fcur_toNat (b : Byte) (h : s.fcur.toNat ≤ 9) : (appendByte b s).fcur.toNat = s.fcur.toNat + 1 := by
  change (s.fcur + 1).toNat = _
  bv_omega

/-! What the framer's invariant says of a frame in progress. -/

theorem fcur_eq_zero_iff (s : State) : s.fcur = 0 ↔ s.fcur.toNat = 0 := BitVec.toNat_inj.symm

/-- A frame in progress has room: the cursor is at most 9, and `CMD_CAP` at least 10 (R10(b)). -/
theorem fcur_lt_cmdCap (inv : FramerInv s) : s.fcur.toNat < s.par.cmdCap :=
  Nat.lt_of_le_of_lt inv.cursor (par_cmdCap_ge s)

theorem exec_fwdByte_eq_checkFrame (inv : FramerInv s) (hfilled : s.ffilled = false) (hprogress : 1 ≤ s.fcur.toNat) :
    exec (.fwdByte b) s = checkFrame (appendByte b s) :=
  exec_fwdByte_of_progress hfilled (mt (fcur_eq_zero_iff s).mp (Nat.ne_of_gt hprogress)) (fcur_lt_cmdCap inv)

/-- From the third byte on, what becomes of the frame is a matter of its length alone. -/
theorem exec_fwdByte_eq_checkLength (inv : FramerInv s) (hfilled : s.ffilled = false) (htwo : 2 ≤ s.fcur.toNat)
    {fc : Byte} (hcode : Memory.read (appendByte b s).fbuf 2 = some fc) :
    exec (.fwdByte b) s = checkLength (appendByte b s) (fwdLen s.par fc) := by
  have second : Memory.read (appendByte b s).fbuf 1 = some s.par.prefix1 :=
    (read_appendByte_below htwo).trans (inv.second htwo)
  have three : 3 ≤ (appendByte b s).fcur.toNat := by
    rw [appendByte_fcur_toNat b inv.cursor]
    exact Nat.succ_le_succ htwo
  exact (exec_fwdByte_eq_checkFrame inv hfilled (Nat.le_of_succ_le htwo)).trans (checkFrame_of_code second three hcode)

end

/-! The statements. -/

/-- Settles O46. -/
theorem discardedBytesChangeNothing : Obligations.DiscardedBytesChangeNothing := by
  intro s b
  exact ⟨exec_fwdByte_of_filled, exec_fwdByte_of_no_start⟩

/-- The step appends the byte, sets the cursor and leaves one tag, and no other item changes. -/
def AppendsWithTag (s : State) (b : Byte) (o : FwdOutcome) (cursor : Nat) : Prop :=
  ∃ t, exec (.fwdByte b) s = .next t ∧ t.fcur.toNat = cursor ∧ t.history = s.history ++ [.fwd o] ∧
    (∀ j, Memory.read t.fbuf j = if j = s.fcur.toNat then some b else Memory.read s.fbuf j) ∧
    { t with fcur := s.fcur, fbuf := s.fbuf, history := s.history } = s

section
variable {s : State} {b : Byte}

theorem appendsWithTag_of_accept {cursor : Nat} (hle : s.fcur.toNat ≤ 9) (hcursor : s.fcur.toNat + 1 = cursor)
    (h : exec (.fwdByte b) s = .next ((appendByte b s).emit (.fwd .accept))) : AppendsWithTag s b .accept cursor :=
  ⟨_, h, (appendByte_fcur_toNat b hle).trans hcursor, rfl, read_appendByte b s, rfl⟩

theorem appendsWithTag_of_reset {o : FwdOutcome}
    (h : exec (.fwdByte b) s = .next (resetFramer (appendByte b s) o)) : AppendsWithTag s b o 0 :=
  ⟨_, h, rfl, rfl, read_appendByte b s, rfl⟩

/-! The byte at each offset of a frame. -/

section
variable (inv : FramerInv s) (hfilled : s.ffilled = false)
include inv hfilled

theorem accepts_frame_start (hoffset : s.fcur.toNat = 0) (hb : b = s.par.prefix0) :
    AppendsWithTag s b .accept 1 :=
  appendsWithTag_of_accept inv.cursor (congrArg Nat.succ hoffset)
    (exec_fwdByte_of_start hfilled ((fcur_eq_zero_iff s).mpr hoffset) hb)

theorem accepts_second_prefix (hoffset : s.fcur.toNat = 1) (hb : b = s.par.prefix1) :
    AppendsWithTag s b .accept 2 := by
  have second : Memory.read (appendByte b s).fbuf 1 = some s.par.prefix1 := hb ▸ read_appendByte_at hoffset
  have two : (appendByte b s).fcur.toNat < 3 := by rw [appendByte_fcur_toNat b inv.cursor, hoffset]; decide
  exact appendsWithTag_of_accept inv.cursor (congrArg Nat.succ hoffset)
    ((exec_fwdByte_eq_checkFrame inv hfilled hoffset.ge).trans (checkFrame_of_prefix second two))

theorem resets_on_desync (hoffset : s.fcur.toNat = 1) (hb : b ≠ s.par.prefix1) :
    AppendsWithTag s b .resetDesync 0 :=
  appendsWithTag_of_reset
    ((exec_fwdByte_eq_checkFrame inv hfilled hoffset.ge).trans (checkFrame_of_desync (read_appendByte_at hoffset) hb))

/-- A code with a length is not the last byte: a length is 5 or 10. -/
theorem accepts_function_code (hoffset : s.fcur.toNat = 2) {n : Nat} (hn : fwdLen s.par b = some n) :
    AppendsWithTag s b .accept 3 := by
  have short : (appendByte b s).fcur.toNat ≠ n := by
    rw [appendByte_fcur_toNat b inv.cursor]
    have := fwdLen_eq hn
    omega
  refine appendsWithTag_of_accept inv.cursor (congrArg Nat.succ hoffset) ?_
  rw [exec_fwdByte_eq_checkLength inv hfilled hoffset.ge (read_appendByte_at hoffset), hn]
  exact checkLength_of_short short

theorem resets_on_unrecognised_code (hoffset : s.fcur.toNat = 2) (hnone : fwdLen s.par b = none) :
    AppendsWithTag s b .resetUnrecognized 0 := by
  refine appendsWithTag_of_reset ?_
  rw [exec_fwdByte_eq_checkLength inv hfilled hoffset.ge (read_appendByte_at hoffset), hnone]
  rfl

/-- Past the code, the code in `FBUF` gives the length. -/
theorem exec_fwdByte_past_code {fc : Byte} {n : Nat} (hoffset : 3 ≤ s.fcur.toNat)
    (hfc : Memory.read s.fbuf 2 = some fc) (hn : fwdLen s.par fc = some n) :
    exec (.fwdByte b) s = checkLength (appendByte b s) (some n) := by
  rw [exec_fwdByte_eq_checkLength inv hfilled (Nat.le_of_succ_le hoffset)
    ((read_appendByte_below hoffset).trans hfc), hn]

theorem accepts_short_of_length {fc : Byte} {n : Nat} (hoffset : 3 ≤ s.fcur.toNat)
    (hfc : Memory.read s.fbuf 2 = some fc) (hn : fwdLen s.par fc = some n) (hshort : s.fcur.toNat + 1 < n) :
    AppendsWithTag s b .accept (s.fcur.toNat + 1) := by
  have short : (appendByte b s).fcur.toNat ≠ n := by
    rw [appendByte_fcur_toNat b inv.cursor]
    exact hshort.ne
  exact appendsWithTag_of_accept inv.cursor rfl
    ((exec_fwdByte_past_code inv hfilled hoffset hfc hn).trans (checkLength_of_short short))

/-- The last byte of a frame: the checksum decides (R196). -/
theorem exec_fwdByte_of_last {fc : Byte} {n : Nat} {body : List Byte} (hoffset : 3 ≤ s.fcur.toNat)
    (hfc : Memory.read s.fbuf 2 = some fc) (hn : fwdLen s.par fc = some n) (hlast : s.fcur.toNat + 1 = n)
    (hbody : Memory.readRange s.fbuf 0 s.fcur.toNat = .ok body) :
    exec (.fwdByte b) s =
      if sum8 (body ++ [b]) = 0 then .next (fillFramer (appendByte b s))
      else .next (resetFramer (appendByte b s) .resetChecksum) :=
  (exec_fwdByte_past_code inv hfilled hoffset hfc hn).trans
    (checkLength_of_complete ((appendByte_fcur_toNat b inv.cursor).trans hlast) (hlast ▸ readRange_appendByte hbody))

end

end

/-- Settles O47: one lemma an offset. -/
theorem fwdByteAppendsOrResets : Obligations.FwdByteAppendsOrResets := by
  intro s b inv hfilled goes
  refine ⟨accepts_frame_start inv hfilled, fun h1 => ⟨accepts_second_prefix inv hfilled h1,
    resets_on_desync inv hfilled h1⟩, fun h2 => ⟨fun hsome => ?code, resets_on_unrecognised_code inv hfilled h2⟩,
    fun fc n => accepts_short_of_length inv hfilled⟩
  case code =>
    obtain ⟨n, hn⟩ := Option.ne_none_iff_exists'.mp hsome
    exact accepts_function_code inv hfilled h2 hn

/-- Settles O48: `exec_fwdByte_of_last`, its two verdicts read through `valid8_iff`. -/
theorem fwdByteCompletesTheFrame : Obligations.FwdByteCompletesTheFrame := by
  intro s b fc n body inv hfilled hoffset hfc hn hlast hbody
  have step := exec_fwdByte_of_last (b := b) inv hfilled hoffset hfc hn hlast hbody
  cases hvalid : valid8 (body ++ [b]) with
  | true =>
    rw [if_pos ((valid8_iff _).mp hvalid)] at step
    exact ⟨_, step, rfl, fun _ => ⟨rfl, rfl⟩, nofun, read_appendByte b s, rfl⟩
  | false =>
    rw [if_neg (mt (valid8_iff _).mpr (ne_true_of_eq_false hvalid))] at step
    exact ⟨_, step, rfl, nofun, fun _ => ⟨hfilled, rfl⟩, read_appendByte b s, rfl⟩

/-- `DROP_FULL` is the tag of a byte past the capacity, and of no other. -/
theorem no_room_of_dropFull {s t : State} {b : Byte} (hst : exec (.fwdByte b) s = .next t)
    (htag : t.history = s.history ++ [.fwd .dropFull]) : s.par.cmdCap ≤ s.fcur.toNat := by
  obtain ⟨-, rfl⟩ | ⟨-, -, -, rfl⟩ | ⟨-, -, -, rfl⟩ | ⟨-, -, hfull, -⟩ | ⟨-, -, -, second, -, ⟨-, rfl⟩ | ⟨-, -, rfl⟩ |
      ⟨-, -, fc, -, ⟨-, rfl⟩ | ⟨n, -, ⟨-, rfl⟩ | ⟨-, frame, -, ⟨-, rfl⟩ | ⟨-, rfl⟩⟩⟩⟩⟩ := framerByte_next hst
  case inr.inr.inr.inl => exact hfull
  all_goals exact absurd (List.append_cancel_left htag) (by decide)

/-- Settles O49: the capacity check, and `fcur_lt_cmdCap`. -/
theorem dropFullIsUnreachable : Obligations.DropFullIsUnreachable := by
  constructor
  · intro s b
    exact exec_fwdByte_of_no_room
  · intro s t b inv hst htag
    exact absurd (no_room_of_dropFull hst htag) (Nat.not_le.mpr (fcur_lt_cmdCap inv))

end Sys2Proof.Proofs
end

section
/-! The drain of a filled frame (42_forward_framer.md R200). -/

namespace Sys2Proof.Proofs

open Sys2Proof.Machine Sys2Proof.Laws Sys2Proof.Safety

section
variable {s : State}

theorem exec_fwdDrain_of_not_filled (h : s.ffilled = false) :
    exec .fwdDrain s = .next { s with drained := false, err := 0x00 } := if_neg (ne_true_of_eq_false h)

/-- What `FWD_DRAIN` reads of a filled frame: its code, user code and length, and the frame's bytes (R199). -/
structure FilledFrame (s : State) (fc uc : Byte) (n : Nat) (frame : List Byte) : Prop where
  filled : s.ffilled = true
  code : Memory.read s.fbuf 2 = some fc
  user : Memory.read s.fbuf 3 = some uc
  length : fwdLen s.par fc = some n
  bytes : Memory.readRange s.fbuf 0 n = .ok frame

theorem filledFrame_of_framerInv (inv : FramerInv s) (hfilled : s.ffilled = true) :
    ∃ fc uc n frame, FilledFrame s fc uc n frame := by
  obtain ⟨-, uc, fc, n, rest, hframe, hn, -⟩ := inv.filled hfilled
  have header : Memory.readRange s.fbuf 0 4 = .ok (frameHeader s.par fc uc) :=
    readRange_take hframe (by have := fwdLen_eq hn; omega)
  obtain ⟨-, -, hfc, huc⟩ := (readRange_four_iff _ _ _ _ _).mp header
  exact ⟨fc, uc, n, _, hfilled, hfc, huc, hn, hframe⟩

section
variable {fc uc : Byte} {n : Nat} {frame : List Byte} (held : FilledFrame s fc uc n frame)
include held

theorem FilledFrame.exec_fwdDrain :
    exec .fwdDrain s = .next { s with
      cmd := Memory.writes s.cmd 0 frame
      ffilled := false
      argFc := fc
      argUc := uc
      argL := BitVec.ofNat 8 n
      drained := true
      err := 0x00 } := by
  change execFwdDrain s = _
  rw [execFwdDrain, if_pos held.filled, withByte_of_read held.code, held.length]
  exact (withBytes_of_readRange held.bytes _).trans (withByte_of_read held.user _)

theorem FilledFrame.frame_length : frame.length = n := ((readRange_ok_iff _ _ _ _).mp held.bytes).1

/-- The length fits `ARG_L`. -/
theorem FilledFrame.length_toNat : (BitVec.ofNat 8 n).toNat = n := by
  have := fwdLen_eq held.length
  rw [BitVec.toNat_ofNat, Nat.mod_eq_of_lt (by omega)]

end

end

/-- Settles O52. -/
theorem fwdDrainHandsOverTheFrame : Obligations.FwdDrainHandsOverTheFrame := by
  intro s
  refine ⟨exec_fwdDrain_of_not_filled, fun inv hfilled => ?_⟩
  obtain ⟨fc, uc, n, frame, held⟩ := filledFrame_of_framerInv inv hfilled
  refine ⟨fc, uc, n, frame, _, held.code, held.user, held.length, held.bytes, held.exec_fwdDrain, ?moved, ?rest, rfl,
    rfl, rfl, held.length_toNat, rfl, rfl, rfl⟩
  case moved => exact readRange_writes_of_length _ 0 held.frame_length
  case rest => exact fun j hj => read_writes_outside _ (.inr (by simpa [held.frame_length] using hj))

end Sys2Proof.Proofs
end

section
/-! The control operations (43_control.md R220 to R222), and the write to `OP` that starts an operation (R71, R102). -/

namespace Sys2Proof.Proofs

open Sys2Proof.Machine Sys2Proof.Laws

/-! The write to `OP`. -/

/-- R98: every op code from 0x0D on is reserved. -/
theorem decodeOp_of_reserved {code : Byte} (h : 0x0D ≤ code.toNat) : decodeOp code = .reservedOp code := by
  obtain ⟨k, hk⟩ := Nat.exists_eq_add_of_le' h
  rw [decodeOp, hk]
  rfl

/-- The block's selection of the operation and the decoder follow one op-code map (R97). -/
theorem startOp_eq_exec_decodeOp (v : Byte) (s : State) : startOp v s = exec (decodeOp v) s := by
  unfold startOp decodeOp
  generalize v.toNat = code
  match code with
  | 0 | 1 | 2 | 3 | 4 | 5 | 6 | 7 | 8 | 9 | 10 | 11 | 12 => rfl
  | _ + 13 => rfl

theorem exec_regWrite_op (v : Byte) (s : State) : exec (.regWrite 0x000 v) s = exec (decodeOp v) s := by
  change execRegWrite (regOffset .op) v s = _
  rw [execRegWrite, locate_regOffset]
  exact startOp_eq_exec_decodeOp v s

/-! `NOP` (R220) and the reserved op codes (R222). -/

theorem exec_nop (s : State) : exec .nop s = .next { s with err := 0x00 } := rfl

theorem exec_reservedOp (code : Byte) (s : State) : exec (.reservedOp code) s = .next { s with err := 0x11 } := rfl

/-- Settles O23: the writes to `OP` are the two instructions they decode to. -/
theorem nopAndReservedOpWriteOnlyErr : Obligations.NopAndReservedOpWriteOnlyErr := by
  intro s code
  refine ⟨exec_nop s, exec_reservedOp code s, ?nopWrite, ?reservedWrite⟩
  case nopWrite => exact (exec_regWrite_op 0x00 s).trans (exec_nop s)
  case reservedWrite =>
    intro hreserved
    rw [exec_regWrite_op, decodeOp_of_reserved hreserved, exec_reservedOp]

/-! `INIT` (R221). -/

theorem exec_init (s : State) : exec .init s = .next (initialised s) := rfl

/-- R51: of the bits of `STATUS` only `CS_ZERO` is set, since `ASYNC_FC` holds `FC_UNKNOWN`. -/
theorem statusByte_resetWith (c : LegalParams) : statusByte (State.resetWith c) = 0x20 := by
  have idle : asyncPending (State.resetWith c) = false := bne_self_eq_false c.params.fcUnknown
  have bits : statusBits (State.resetWith c) = [false, false, false, false, false, true, false, false] := by
    rw [statusBits, idle]
    rfl
  rw [statusByte, bits]
  rfl

/-- `STATUS` is a view of items that `INIT` resets (R31): the buffers have no part in it. -/
theorem statusByte_initialised (s : State) : statusByte (initialised s) = statusByte (State.resetWith s.cfg) := rfl

/-- Settles O24. -/
theorem initResetsAllButTheBuffers : Obligations.InitResetsAllButTheBuffers := by
  intro s
  refine ⟨_, exec_init s, ⟨rfl, rfl, rfl, rfl⟩, ?status, ?items⟩
  case status => exact (statusByte_initialised s).trans (statusByte_resetWith s.cfg)
  case items => rfl

end Sys2Proof.Proofs
end

section
/-! The ready edge (60_exceptions.md R242). -/

namespace Sys2Proof.Proofs

open Sys2Proof.Machine

/-- The edges that a polarity names (R9), row by row of their table. -/
theorem activeEdge_iff {p : EdgePolarity} {e : LineEdge} :
    activeEdge p e = true ↔ p = .both ∨ (p = .rising ∧ e = .rising) ∨ (p = .falling ∧ e = .falling) := by
  cases p <;> cases e <;> decide

theorem exec_rdyEdge_of_active {s : State} {e : LineEdge} (h : activeEdge s.par.rdyEdge e = true) :
    exec (.rdyEdge e) s = .next { s with rdyFlag := true } :=
  congrArg Host.Outcome.next (if_pos h)

/-- Settles O43: the statement's premise is that the edge is active. -/
theorem readyEdgeSetsTheFlag : Obligations.ReadyEdgeSetsTheFlag :=
  fun _ _ hpolarity => exec_rdyEdge_of_active (activeEdge_iff.mpr hpolarity)

end Sys2Proof.Proofs
end

section
/-! Power-on reset (70_reset_and_hazards.md R270). -/

namespace Sys2Proof.Proofs

open Sys2Proof.Machine Sys2Proof.Laws

/-- With no transaction pending the block starts no operation by itself (R270; the schedule is log 2). -/
theorem step_of_pending_nil {s : State} (h : s.pending = []) : step s = .next s := by
  rw [step, h]

/-- `ARG_FLAGS = 0` clears both of its fields (R27). -/
theorem flags_of_argFlags_zero {s : State} (h : s.argFlags = 0) : waitFlag s = false ∧ silentFlag s = false := by
  simp [waitFlag, silentFlag, h]

theorem step_resetWith (c : LegalParams) : step (State.resetWith c) = .next (State.resetWith c) :=
  step_of_pending_nil rfl

/-- No index of a buffer holds a byte after power-on (R49). -/
theorem read_resetWith (c : LegalParams) (i : Nat) :
    Memory.read (State.resetWith c).cmd i = none ∧ Memory.read (State.resetWith c).bak i = none ∧
      Memory.read (State.resetWith c).fbuf i = none ∧ Memory.read (State.resetWith c).ret i = none :=
  ⟨read_nil i, read_nil i, read_nil i, read_nil i⟩

/-- Settles O8: the stored items by the definition of the reset state, the views of them, the step and the buffers by
their lemmas. -/
theorem resetValuesAreTheTables : Obligations.ResetValuesAreTheTables := by
  intro c s
  obtain ⟨wait, silent⟩ : waitFlag s = false ∧ silentFlag s = false := flags_of_argFlags_zero rfl
  exact ⟨⟨rfl, rfl, rfl, rfl, rfl, rfl, rfl⟩, ⟨wait, silent, rfl⟩, rfl, rfl, rfl, rfl, ⟨rfl, rfl, rfl⟩, rfl, rfl, rfl,
    rfl, rfl, rfl, rfl, statusByte_resetWith c, rfl, step_resetWith c, read_resetWith c⟩

end Sys2Proof.Proofs
end

section
/-! The decoder and the encoder (30_encoding.md R90 to R99): each gives back what the other took. -/

namespace Sys2Proof.Proofs

open Sys2Proof.Machine Sys2Proof.Laws Sys2Proof.Safety

/-! The op-code map (R97, R98). -/

/-- Below 0x0D the map is R97's table, from there on it is R98: either way the instruction encodes to the op code. -/
theorem decodeOp_roundTrip (p : Params) (v : Byte) :
    wellFormed p (decodeOp v) = true ∧ encode p (decodeOp v) = opWrite v := by
  obtain hlo | hhi := Nat.lt_or_ge v.toNat 0x0D
  · have hv : v = BitVec.ofNat 8 v.toNat := by simp
    generalize v.toNat = k at hlo hv
    subst hv
    interval_cases k <;> exact ⟨rfl, rfl⟩
  · rw [decodeOp_of_reserved hhi]
    exact ⟨decide_eq_true hhi, rfl⟩

theorem decodeWrite_of_plain {off : Half} (v : Byte) (hop : off ≠ 0x000) (hfwd : off ≠ 0x00D) (hcs : off ≠ 0x017) :
    decodeWrite off v = .regWrite off v := by
  rw [decodeWrite, if_neg hop, if_neg hfwd, if_neg hcs]

/-- A host write encodes from what it decodes to: an operation, an operand of a trigger, or a plain write. -/
theorem decodeWrite_roundTrip (p : Params) (off : Half) (v : Byte) :
    wellFormed p (decodeWrite off v) = true ∧ encode p (decodeWrite off v) = .hostWrite off v := by
  unfold decodeWrite
  split_ifs with hop hfwd hcs
  · exact hop ▸ decodeOp_roundTrip p v
  · exact ⟨rfl, hfwd ▸ rfl⟩
  · exact ⟨rfl, hcs ▸ rfl⟩
  · exact ⟨decide_eq_true ⟨hop, hfwd, hcs⟩, rfl⟩

/-! The function codes (R96). -/

theorem codeOfByte_codeValue (c : LegalParams) (f : FunctionCode) :
    codeOfByte c.params (codeValue c.params f) = some f := by
  have nodup := codes_nodup c
  simp only [Params.functionCodes, List.nodup_cons, List.mem_cons, not_or] at nodup
  cases f <;> grind [codeOfByte, codeValue]

theorem codeValue_of_codeOfByte {p : Params} {b : Byte} {f : FunctionCode} (h : codeOfByte p b = some f) :
    codeValue p f = b := by
  unfold codeOfByte at h
  split_ifs at h <;> cases h <;> exact Eq.symm ‹_›

/-! The frame rows (R91, R92, R95, R96). -/

theorem decodeAcq_acqBytes (a : AcqPayload) : decodeAcq (acqBytes a) = some a := by
  simp [acqBytes, decodeAcq]

theorem acqBytes_of_decodeAcq {bytes : List Byte} {a : AcqPayload} (h : decodeAcq bytes = some a) :
    bytes = acqBytes a := by
  unfold decodeAcq at h
  split at h
  · cases h
    simp [acqBytes]
  · cases h

/-- The function code, user code and payload of a frame row, whether the framer recognises it or not. -/
def frameParts (i : Instr) : Option (FunctionCode × Byte × List Byte) := dispatchFrame i <|> unrecognisedFrame i

/-- The payload that a row admits is the payload of a well-formed instruction of that row. -/
theorem decodePayload_eq_some_iff {p : Params} {f : FunctionCode} {uc : Byte} {payload : List Byte} {i : Instr} :
    decodePayload p f uc payload = some i ↔ frameParts i = some (f, uc, payload) ∧ wellFormed p i = true := by
  constructor
  · intro h
    cases f
    case acqSpectrum | acqXyz =>
      obtain ⟨a, ha, rfl⟩ := Option.map_eq_some_iff.mp h
      rw [acqBytes_of_decodeAcq ha]
      exact ⟨rfl, rfl⟩
    case unknown =>
      cases h
      exact ⟨rfl, rfl⟩
    case getSpectrum | getXyz =>
      obtain ⟨hlength, hi⟩ := Option.ite_none_right_eq_some.mp h
      cases hi
      exact ⟨rfl, decide_eq_true hlength⟩
    all_goals
      obtain ⟨rfl, hi⟩ := Option.ite_none_right_eq_some.mp h
      cases hi
      exact ⟨rfl, rfl⟩
  · rintro ⟨hparts, hwf⟩
    cases i <;> cases hparts
    case frameAcqSpectrum.refl | frameAcqXyz.refl => simp [decodePayload, decodeAcq_acqBytes]
    case frameGetSpectrum.refl | frameGetXyz.refl => exact if_pos (of_decide_eq_true hwf)
    all_goals rfl

theorem encode_of_frameParts {p : Params} {f : FunctionCode} {uc : Byte} {payload : List Byte} {i : Instr}
    (h : frameParts i = some (f, uc, payload)) : encode p i = relayFrame p f uc payload := by
  cases i <;> cases h <;> rfl

/-! Whole frames (R90). -/

theorem commandFrame_eq (p : Params) (fc uc : Byte) (payload : List Byte) :
    commandFrame p fc uc payload =
      p.prefix0 :: p.prefix1 :: fc :: uc :: (payload ++ [checksum8 (frameHeader p fc uc ++ payload)]) := rfl

@[simp] theorem commandFrame_length (p : Params) (fc uc : Byte) (payload : List Byte) :
    (commandFrame p fc uc payload).length = payload.length + 5 := by
  simp [commandFrame_eq]

theorem valid8_commandFrame (p : Params) (fc uc : Byte) (payload : List Byte) :
    valid8 (commandFrame p fc uc payload) = true :=
  appendedChecksumValidates _

/-- A valid byte sequence behind a header is the frame of its payload: the last byte can only be the checksum. -/
theorem eq_commandFrame_of_valid8 {p : Params} {fc uc : Byte} {rest : List Byte} (hrest : rest ≠ [])
    (hvalid : valid8 (frameHeader p fc uc ++ rest) = true) :
    frameHeader p fc uc ++ rest = commandFrame p fc uc rest.dropLast := by
  obtain ⟨payload, last, rfl⟩ := (List.eq_nil_or_concat rest).resolve_left hrest
  rw [List.concat_eq_append, ← List.append_assoc] at hvalid
  rw [List.concat_eq_append, List.dropLast_concat, ← List.append_assoc]
  rw [(valid8_append_singleton_iff _ _).mp hvalid]
  rfl

/-- The decoder's checks (R90, R96) in order, on bytes that are long enough for a frame. -/
theorem decodeFrame_eq_ok_iff {p : Params} {bytes : List Byte} {i : Instr} :
    decodeFrame p bytes = .ok i ↔ ∃ fc f uc rest, rest ≠ [] ∧ bytes = frameHeader p fc uc ++ rest ∧
      valid8 bytes = true ∧ codeOfByte p fc = some f ∧ decodePayload p f uc rest.dropLast = some i := by
  constructor
  · intro h
    unfold decodeFrame at h
    split at h
    case h_2 => cases h
    case h_1 b0 b1 fc uc chk rest =>
      split_ifs at h with hprefix hvalid
      obtain ⟨rfl, rfl⟩ : b0 = p.prefix0 ∧ b1 = p.prefix1 := by simpa [not_or] using hprefix
      split at h
      case h_1 => cases h
      case h_2 f hf =>
        split at h
        case h_1 => cases h
        case h_2 j hj =>
          cases h
          exact ⟨fc, f, uc, chk :: rest, List.cons_ne_nil _ _, rfl, by simpa using hvalid, hf, hj⟩
  · rintro ⟨fc, f, uc, rest, hrest, rfl, hvalid, hf, hi⟩
    obtain ⟨chk, rest, rfl⟩ := List.exists_cons_of_ne_nil hrest
    simp only [frameHeader, List.cons_append, List.nil_append] at hvalid ⊢
    simp [decodeFrame, hvalid, hf, hi]

/-- What decodes as a frame is the encoding of a well-formed frame row. -/
theorem encode_of_decodeFrame {p : Params} {bytes : List Byte} {i : Instr} (h : decodeFrame p bytes = .ok i) :
    wellFormed p i = true ∧ encode p i = .relay bytes := by
  obtain ⟨fc, f, uc, rest, hrest, rfl, hvalid, hf, hi⟩ := decodeFrame_eq_ok_iff.mp h
  obtain ⟨hparts, hwf⟩ := decodePayload_eq_some_iff.mp hi
  rw [encode_of_frameParts hparts, relayFrame, codeValue_of_codeOfByte hf, eq_commandFrame_of_valid8 hrest hvalid]
  exact ⟨hwf, rfl⟩

theorem decode_relayFrame (c : LegalParams) {f : FunctionCode} {uc : Byte} {payload : List Byte} {i : Instr}
    (hparts : frameParts i = some (f, uc, payload)) (hwf : wellFormed c.params i = true) :
    decode c.params (relayFrame c.params f uc payload) = .ok i := by
  refine decodeFrame_eq_ok_iff.mpr ⟨codeValue c.params f, f, uc,
    payload ++ [checksum8 (frameHeader c.params (codeValue c.params f) uc ++ payload)], by simp, rfl,
    valid8_commandFrame _ _ _ _, codeOfByte_codeValue c f, ?_⟩
  rw [List.dropLast_concat]
  exact decodePayload_eq_some_iff.mpr ⟨hparts, hwf⟩

/-- Settles O1: a frame row by `decode_relayFrame`; of the others only a reserved op code and a plain write need what
their well-formedness says. -/
theorem decodeOfEncodeIsTheInstruction : Obligations.DecodeOfEncodeIsTheInstruction := by
  intro c i hwf
  cases hparts : frameParts i with
  | some parts => rw [encode_of_frameParts hparts, decode_relayFrame c hparts hwf]
  | none =>
    cases i <;> cases hparts
    case reservedOp.refl code => exact congrArg Except.ok (decodeOp_of_reserved (of_decide_eq_true hwf))
    case regWrite.refl off v =>
      obtain ⟨hop, hfwd, hcs⟩ := of_decide_eq_true hwf
      exact congrArg Except.ok (decodeWrite_of_plain v hop hfwd hcs)
    all_goals rfl

/-- A transaction that decodes is the encoding of what it decodes to. -/
theorem encode_of_decode {p : Params} {t : Transaction} {i : Instr} (h : decode p t = .ok i) :
    wellFormed p i = true ∧ encode p i = t := by
  cases t with
  | hostWrite off v => cases h; exact decodeWrite_roundTrip p off v
  | hostRead off => cases h; exact ⟨rfl, rfl⟩
  | rx b => cases h; exact ⟨rfl, rfl⟩
  | readyEdge e => cases h; exact ⟨rfl, rfl⟩
  | relay bytes => exact encode_of_decodeFrame h

/-- Settles O2: the encoding is `encode_of_decode`, and O1 makes it the only one. -/
theorem encodeOfDecodeIsTheTransaction : Obligations.EncodeOfDecodeIsTheTransaction := by
  intro c t i h
  obtain ⟨hwf, hencode⟩ := encode_of_decode h
  refine ⟨hwf, hencode, fun j hwfj hj => ?_⟩
  have back : decode c.params t = .ok j := hj ▸ decodeOfEncodeIsTheInstruction c j hwfj
  exact Except.ok.inj (back.symm.trans h)

/-! Table words (log 10). -/

/-- Settles O3: R97 on the thirteen words by evaluation, R98 by `decodeOp_of_reserved`. -/
theorem opCodeMapIsTheTable : Obligations.OpCodeMapIsTheTable :=
  ⟨rfl, fun _ => decodeOp_of_reserved⟩

/-- Settles O4 by evaluating the decoder on the four words. -/
theorem triggerAndFrameWordsDecode : Obligations.TriggerAndFrameWordsDecode :=
  ⟨rfl, rfl, rfl, rfl⟩

/-! The step (R7, R75). -/

theorem step_of_decode {s : State} {t : Transaction} {rest : List Transaction} {i : Instr}
    (hpending : s.pending = t :: rest) (hi : decode s.par t = .ok i) : step s = exec i (s.withPending rest) := by
  simp only [step, hpending, hi]

theorem step_of_reject {s : State} {t : Transaction} {rest : List Transaction} {why : FrameReject}
    (hpending : s.pending = t :: rest) (hwhy : decode s.par t = .error why) : step s = .refused (.notAFrame why) := by
  simp only [step, hpending, hwhy]

/-- Settles O5: the three branches of `step`. -/
theorem stepRunsTheDecodedInstruction : Obligations.StepRunsTheDecodedInstruction := by
  intro s
  exact ⟨step_of_pending_nil, fun t rest hpending =>
    ⟨fun i hi => step_of_decode hpending hi, fun why hwhy => step_of_reject hpending hwhy⟩⟩

/-- What a step that answers has done: nothing, or the next transaction's instruction. -/
theorem step_next {s t : State} (h : step s = .next t) :
    t = s ∨ ∃ x rest i, s.pending = x :: rest ∧ decode s.par x = .ok i ∧ exec i (s.withPending rest) = .next t := by
  cases hpending : s.pending with
  | nil =>
    rw [step_of_pending_nil hpending] at h
    exact .inl (Host.Outcome.next.inj h).symm
  | cons x rest =>
    cases hdecode : decode s.par x with
    | ok i => exact .inr ⟨x, rest, i, rfl, hdecode, (step_of_decode hpending hdecode).symm.trans h⟩
    | error why =>
      rw [step_of_reject hpending hdecode] at h
      cases h

end Sys2Proof.Proofs
end

section
/-! The register interface (20_memory.md R62 to R71): what an offset names, and what a read or a write there does. -/

namespace Sys2Proof.Proofs

open Sys2Proof.Machine Sys2Proof.Laws Sys2Proof.Safety

/-! What an offset names (R62 to R66). -/

section
variable {p : Params} {off : Half} {i : Nat}

theorem locate_of_register (h : off.toNat < 0x100) :
    locate p off = (regAt off.toNat).elim .reserved .reg := by
  rw [locate, if_pos h]
  cases regAt off.toNat <;> rfl

theorem locate_of_window (h : 0x100 ≤ off.toNat) :
    locate p off =
      if off.toNat < 0x100 + p.cmdCap then .cmd (off.toNat - 0x100)
      else if 0x200 ≤ off.toNat ∧ off.toNat < 0x200 + p.cmdCap then .fbuf (off.toNat - 0x200)
      else if 0x400 ≤ off.toNat ∧ off.toNat < 0x400 + p.retCap then .ret (off.toNat - 0x400)
      else .reserved := if_neg (Nat.not_lt.mpr h)

theorem locate_cmd (hoff : off.toNat = 0x100 + i) (hi : i < p.cmdCap) : locate p off = .cmd i := by
  rw [locate_of_window (by omega), if_pos (by omega), hoff, Nat.add_sub_cancel_left]

/-- The windows do not overlap, since `CMD_CAP` is at most 255 (R10(b)). -/
theorem locate_fbuf (hcap : p.cmdCap ≤ 255) (hoff : off.toNat = 0x200 + i) (hi : i < p.cmdCap) :
    locate p off = .fbuf i := by
  rw [locate_of_window (by omega), if_neg (by omega), if_pos (by omega), hoff, Nat.add_sub_cancel_left]

theorem locate_ret (hcap : p.cmdCap ≤ 255) (hoff : off.toNat = 0x400 + i) (hi : i < p.retCap) :
    locate p off = .ret i := by
  rw [locate_of_window (by omega), if_neg (by omega), if_neg (by omega), if_pos (by omega), hoff,
    Nat.add_sub_cancel_left]

/-- No register stands past 0x019. -/
theorem regAt_of_ge {n : Nat} (h : 0x01A ≤ n) : regAt n = none := by
  obtain ⟨k, rfl⟩ := Nat.exists_eq_add_of_le' h
  rfl

theorem locate_reserved (hcap : p.cmdCap ≤ 255)
    (h : (0x01A ≤ off.toNat ∧ off.toNat ≤ 0x0FF) ∨ (0x100 + p.cmdCap ≤ off.toNat ∧ off.toNat ≤ 0x1FF) ∨
      (0x200 + p.cmdCap ≤ off.toNat ∧ off.toNat ≤ 0x2FF) ∨ (0x300 ≤ off.toNat ∧ off.toNat ≤ 0x3FF) ∨
      0x400 + p.retCap ≤ off.toNat) : locate p off = .reserved := by
  obtain hlow | hhigh := Nat.lt_or_ge off.toNat 0x100
  · rw [locate_of_register hlow, regAt_of_ge (by omega), Option.elim_none]
  · rw [locate_of_window hhigh, if_neg (by omega), if_neg (by omega), if_neg (by omega)]

theorem regOffset_of_regAt {n : Nat} {r : Reg} (h : regAt n = some r) : (regOffset r).toNat = n := by
  unfold regAt at h
  split at h <;> cases h <;> rfl

/-- A register is named by its own offset only. -/
theorem regOffset_of_locate {r : Reg} (h : locate p off = .reg r) : off = regOffset r := by
  obtain hlow | hhigh := Nat.lt_or_ge off.toNat 0x100
  · rw [locate_of_register hlow] at h
    cases hreg : regAt off.toNat with
    | none => simp [hreg] at h
    | some r' =>
      simp only [hreg, Option.elim_some, Location.reg.injEq] at h
      exact BitVec.eq_of_toNat_eq (h ▸ (regOffset_of_regAt hreg).symm)
  · rw [locate_of_window hhigh] at h
    split_ifs at h

end

/-! Reads (R70). -/

section
variable {s : State} {off : Half} {loc : Location}

theorem exec_regRead_of_value {v : Byte} (hloc : locate s.par off = loc) (hv : readLocation s loc = .ok v) :
    exec (.regRead off) s = .next { s with history := s.history ++ [.readData off v] } := by
  change execRegRead off s = _
  simp only [execRegRead, hloc, hv, State.emit]

theorem exec_regRead_of_fault {f : Fault} (hloc : locate s.par off = loc) (hf : readLocation s loc = .error f) :
    exec (.regRead off) s = .fault f := by
  change execRegRead off s = _
  simp only [execRegRead, hloc, hf]

end

theorem exec_regRead_register (s : State) (r : Reg) :
    exec (.regRead (regOffset r)) s =
      .next { s with history := s.history ++ [.readData (regOffset r) (regValue s r)] } :=
  exec_regRead_of_value (locate_regOffset _ _) rfl

theorem argFlags_zero_append (x : BitVec 2) : (0#6 ++ x : Byte) = x.setWidth 8 := by
  revert x
  decide

/-- Settles O9: `exec_regRead_register` at each register; the halves of a 16-bit register are its two bytes. -/
theorem regReadReturnsTheRegister : Obligations.RegReadReturnsTheRegister := by
  intro s returns
  have reads (r : Reg) : returns (regOffset r) (regValue s r) := exec_regRead_register s r
  have reads_lo (r : Reg) (h : Half) (value : regValue s r = loByte h) : returns (regOffset r) (h.extractLsb' 0 8) := by
    rw [← loByte_eq_extractLsb', ← value]
    exact reads r
  have flags : returns (regOffset .argFlags) (0#6 ++ s.argFlags) := by
    rw [argFlags_zero_append]
    exact reads .argFlags
  have negated : returns (regOffset .csChk) (0 - s.csAcc) := by
    rw [zero_sub]
    exact reads .csChk
  exact ⟨reads .op, reads .status, reads .err, reads .argFc, reads .argUc, reads .argL, reads_lo .argRLo _ rfl,
    reads .argRHi, flags, reads_lo .argItLo _ rfl, reads .argItHi, reads .argAvg, reads .argAe, reads .fwdData,
    reads .fwdCur, reads .asyncFc, reads .lastFc, reads .lastUc, reads .lastL, reads_lo .retSizeLo _ rfl,
    reads .retSizeHi, reads_lo .rxCntLo _ rfl, reads .rxCntHi, reads .csData, reads .csSum, negated⟩

/-! A window location gives the buffer's byte, or the fault that names it. -/

theorem readLocation_cmd (s : State) (i : Nat) :
    readLocation s (.cmd i) = (Memory.read s.cmd i).elim (.error (.unwrittenByte .cmd i)) .ok := by
  cases h : Memory.read s.cmd i <;> simp [readLocation, h]

theorem readLocation_fbuf (s : State) (i : Nat) :
    readLocation s (.fbuf i) = (Memory.read s.fbuf i).elim (.error (.unwrittenByte .fbuf i)) .ok := by
  cases h : Memory.read s.fbuf i <;> simp [readLocation, h]

theorem readLocation_ret (s : State) (i : Nat) :
    readLocation s (.ret i) = (Memory.read s.ret i).elim (.error (.unwrittenByte .ret i)) .ok := by
  cases h : Memory.read s.ret i <;> simp [readLocation, h]

/-- Settles O10: each window is one location, and its reads are the buffer's. -/
theorem regReadOfAWindowReturnsTheByte : Obligations.RegReadOfAWindowReturnsTheByte := by
  intro s off i b m hwindow
  have hcap := par_cmdCap_le s
  obtain ⟨loc, hloc, hread⟩ : ∃ loc, locate s.par off = loc ∧
      readLocation s loc = (Memory.read m i).elim (.error (.unwrittenByte b i)) .ok := by
    obtain ⟨hoff, hi, rfl, rfl⟩ | ⟨hoff, hi, rfl, rfl⟩ | ⟨hoff, hi, rfl, rfl⟩ := hwindow
    · exact ⟨_, locate_cmd hoff hi, readLocation_cmd s i⟩
    · exact ⟨_, locate_fbuf hcap hoff hi, readLocation_fbuf s i⟩
    · exact ⟨_, locate_ret hcap hoff hi, readLocation_ret s i⟩
  constructor
  · intro v hv
    rw [hv] at hread
    exact exec_regRead_of_value hloc hread
  · intro hnone
    rw [hnone] at hread
    exact exec_regRead_of_fault hloc hread

/-! Writes (R71): to a trigger register, to another register, to the command window, elsewhere. -/

theorem exec_regWrite_fwdData (v : Byte) (s : State) : exec (.regWrite 0x00D v) s = exec (.fwdByte v) s := by
  change execRegWrite (regOffset .fwdData) v s = _
  rw [execRegWrite, locate_regOffset]
  rfl

theorem exec_regWrite_csData (v : Byte) (s : State) : exec (.regWrite 0x017 v) s = exec (.csAdd v) s := by
  change execRegWrite (regOffset .csData) v s = _
  rw [execRegWrite, locate_regOffset]
  rfl

/-- Settles O16. -/
theorem regWriteToATriggerIsItsOperation : Obligations.RegWriteToATriggerIsItsOperation := by
  intro s v
  exact ⟨exec_regWrite_op v s, exec_regWrite_fwdData v s, exec_regWrite_csData v s⟩

/-- A write means what the decoder makes of it, at every offset (log 17). -/
theorem exec_decodeWrite (off : Half) (v : Byte) (s : State) :
    exec (decodeWrite off v) s = exec (.regWrite off v) s := by
  unfold decodeWrite
  split_ifs with hop hfwd hcs
  · rw [hop, exec_regWrite_op]
  · rw [hfwd, exec_regWrite_fwdData]
  · rw [hcs, exec_regWrite_csData]
  · rfl

theorem exec_regWrite_register {s : State} (v : Byte) {r : Reg} (hr : r ∉ [Reg.op, .fwdData, .csData]) :
    exec (.regWrite (regOffset r) v) s = .next (storeReg s v r) := by
  change execRegWrite _ _ _ = _
  rw [execRegWrite, locate_regOffset]
  cases r
  case op | fwdData | csData => exact absurd (by decide) hr
  all_goals rfl

theorem exec_regWrite_cmd {s : State} {off : Half} (v : Byte) {i : Nat} (hloc : locate s.par off = .cmd i) :
    exec (.regWrite off v) s = .next { s with cmd := Memory.write s.cmd i v } := by
  change execRegWrite _ _ _ = _
  rw [execRegWrite, hloc]

theorem exec_regWrite_ignored {s : State} {off : Half} (v : Byte)
    (hloc : (∃ i, locate s.par off = .fbuf i) ∨ (∃ i, locate s.par off = .ret i) ∨ locate s.par off = .reserved) :
    exec (.regWrite off v) s = .next s := by
  change execRegWrite _ _ _ = _
  obtain ⟨i, h⟩ | ⟨i, h⟩ | h := hloc <;> rw [execRegWrite, h]

/-- Settles O11. -/
theorem reservedOffsetsReadZeroAndIgnoreWrites : Obligations.ReservedOffsetsReadZeroAndIgnoreWrites := by
  intro s off v hoff
  have hloc : locate s.par off = .reserved := locate_reserved (par_cmdCap_le s) hoff
  exact ⟨exec_regRead_of_value hloc rfl, exec_regWrite_ignored v (.inr (.inr hloc))⟩

/-- Settles O14. -/
theorem regWriteInTheCommandWindow : Obligations.RegWriteInTheCommandWindow := by
  intro s off v i hoff hi
  exact ⟨_, exec_regWrite_cmd v (locate_cmd hoff hi), read_write _ _ _, rfl⟩

/-- The registers that a plain write leaves alone (R62, R66). -/
def readOnlyRegs : List Reg :=
  [.status, .err, .fwdCur, .asyncFc, .lastFc, .lastUc, .lastL, .retSizeLo, .retSizeHi, .rxCntLo, .rxCntHi, .csSum,
    .csChk]

theorem exec_regWrite_readOnly (s : State) (v : Byte) {r : Reg} (hr : r ∈ readOnlyRegs) :
    exec (.regWrite (regOffset r) v) s = .next s := by
  rw [exec_regWrite_register v (by revert r; decide)]
  revert r
  simp [readOnlyRegs, storeReg]

/-- Settles O15: the thirteen offsets are those of `readOnlyRegs`. -/
theorem regWriteToReadOnlyIsIgnored : Obligations.RegWriteToReadOnlyIsIgnored := by
  intro s off v hoff
  have hcap := par_cmdCap_le s
  obtain hreg | ⟨hlo, hhi⟩ | ⟨hlo, hhi⟩ := hoff
  · obtain ⟨r, hr, rfl⟩ : ∃ r ∈ readOnlyRegs, regOffset r = off := List.mem_map.mp hreg
    exact exec_regWrite_readOnly s v hr
  · obtain ⟨i, hi⟩ := Nat.exists_eq_add_of_le hlo
    exact exec_regWrite_ignored v (.inl ⟨i, locate_fbuf hcap hi (by omega)⟩)
  · obtain ⟨i, hi⟩ := Nat.exists_eq_add_of_le hlo
    exact exec_regWrite_ignored v (.inr (.inl ⟨i, locate_ret hcap hi (by omega)⟩))

/-! The operand registers (R23 to R30). -/

/-- The registers that a plain write stores to. -/
def operandRegs : List Reg :=
  [.argFc, .argUc, .argL, .argRLo, .argRHi, .argFlags, .argItLo, .argItHi, .argAvg, .argAe]

theorem setWidth_two_eight (v : Byte) : (v.setWidth 2).setWidth 8 = v &&& 0x03 := by
  revert v
  decide

theorem regValue_storeReg_same (s : State) (v : Byte) {r : Reg} (hr : r ∈ operandRegs) :
    regValue (storeReg s v r) r = if r = .argFlags then v &&& 0x03 else v := by
  cases r
  case argFlags => exact setWidth_two_eight v
  case argRLo | argItLo => exact lo_pair _ _
  case argRHi | argItHi => exact hi_pair _ _
  case argFc | argUc | argL | argAvg | argAe => rfl
  all_goals exact absurd hr (by decide)

/-- No bit of `STATUS` is a view of an operand (R31). -/
theorem statusByte_storeReg (s : State) (v : Byte) (r : Reg) : statusByte (storeReg s v r) = statusByte s := by
  cases r <;> rfl

/-- Only the other half of a 16-bit register needs a law; every other register is another item of state. -/
theorem regValue_storeReg_other (s : State) (v : Byte) {r r' : Reg} (h : r' ≠ r) :
    regValue (storeReg s v r) r' = regValue s r' := by
  by_cases hstatus : r' = .status
  · exact hstatus ▸ statusByte_storeReg s v r
  by_cases hlo : (r = .argRLo ∧ r' = .argRHi) ∨ (r = .argItLo ∧ r' = .argItHi)
  · obtain ⟨rfl, rfl⟩ | ⟨rfl, rfl⟩ := hlo <;> exact hi_pair _ _
  by_cases hhi : (r = .argRHi ∧ r' = .argRLo) ∨ (r = .argItHi ∧ r' = .argItLo)
  · obtain ⟨rfl, rfl⟩ | ⟨rfl, rfl⟩ := hhi <;> exact lo_pair _ _
  cases r
  case argFc | argUc | argL | argRLo | argRHi | argFlags | argItLo | argItHi | argAvg | argAe =>
    cases r' <;> simp_all [storeReg, regValue]
  all_goals rfl

theorem storeReg_frame (s : State) (v : Byte) (r : Reg) :
    { storeReg s v r with argFc := s.argFc, argUc := s.argUc, argL := s.argL, argR := s.argR, argFlags := s.argFlags,
                          argIt := s.argIt, argAvg := s.argAvg, argAe := s.argAe } = s := by
  cases r <;> rfl

/-- Settles O13. -/
theorem regWriteStoresTheOperand : Obligations.RegWriteStoresTheOperand := by
  intro s v r hr
  exact ⟨_, exec_regWrite_register v (by revert r; decide), regValue_storeReg_same s v hr,
    fun r' h => regValue_storeReg_other s v h, storeReg_frame s v r⟩

/-! `STATUS` (R31). -/

/-- Settles O12: the bits are those of `statusBits`, by `statusByte_getLsbD`. -/
theorem statusIsAViewOfSingleBits : Obligations.StatusIsAViewOfSingleBits := by
  intro s v
  have bit {i : Nat} (hi : i < 8) := statusByte_getLsbD s hi
  refine ⟨bit (by decide), bit (by decide), bit (by decide), bit (by decide), bit (by decide), bit (by decide),
    (bit (by decide)).trans ?available, (bit (by decide)).trans ?pending, exec_regRead_register s .status,
    exec_regWrite_readOnly s v (r := .status) (by decide)⟩
  case available => exact (decide_not ..).symm
  case pending => exact (decide_not ..).symm

/-! The checksum unit (R126, R127). -/

theorem exec_csAdd (b : Byte) (s : State) : exec (.csAdd b) s = .next { s with csAcc := s.csAcc + b } := rfl

/-- A run of `CS_ADD` adds the sequence's `Sum8`. -/
theorem execAll_csAdd (bs : List Byte) (s : State) :
    execAll (bs.map .csAdd) s = .next { s with csAcc := s.csAcc + sum8 bs } := by
  induction bs generalizing s with
  | nil => simp [execAll]
  | cons b bs ih => simp [execAll, exec_csAdd, ih, add_assoc]

/-- Settles O20. -/
theorem checksumUnitSumsTheSequence : Obligations.ChecksumUnitSumsTheSequence := by
  refine ⟨fun s b => ?add, fun s => ⟨exec_regRead_register s .csSum, ?chk, ?zero⟩, fun s bs => ?run⟩
  case add =>
    have sum : BitVec.ofNat 8 ((s.csAcc.toNat + b.toNat) % 256) = s.csAcc + b := by bv_omega
    rw [sum, exec_csAdd]
  case chk =>
    have negated : BitVec.ofNat 8 ((256 - s.csAcc.toNat) % 256) = negByte s.csAcc := by
      rw [negByte]
      bv_omega
    rw [negated]
    exact exec_regRead_register s .csChk
  case zero =>
    rw [statusByte_csZero]
    exact beq_iff_eq
  case run =>
    have run : execAll (.csClr :: bs.map .csAdd) s = .next { s with csAcc := sum8 bs, err := 0x00 } := by
      simp [execAll, exec_csClr, execAll_csAdd]
    exact ⟨_, run, rfl, rfl, rfl, statusByte_csZero _, rfl, rfl⟩

/-- Settles O44: the other edge is not active. -/
theorem edgeOfTheOtherPolarityChangesNothing : Obligations.EdgeOfTheOtherPolarityChangesNothing := by
  intro s e hother
  have inactive : ¬ activeEdge s.par.rdyEdge e = true := by
    obtain ⟨hp, rfl⟩ | ⟨hp, rfl⟩ := hother <;> rw [hp] <;> decide
  exact congrArg Host.Outcome.next (if_neg inactive)

end Sys2Proof.Proofs
end

section
/-! What each instruction can do, said once: if it answers a next state, that state is one of the listed ones. -/

namespace Sys2Proof.Proofs

open Sys2Proof.Machine Sys2Proof.Laws Sys2Proof.Safety

/-! Fed bytes (R103(c), R191). A frame row is the feed of its bytes (log 4). -/

theorem feedBytes_cons (b : Byte) (bs : List Byte) (s : State) :
    feedBytes (b :: bs) s = afterNext (exec (.fwdByte b) s) (feedBytes bs) := by
  change _ = afterNext (framerByte b s) _
  cases h : framerByte b s <;> simp [feedBytes, h, afterNext]

theorem feedBytes_singleton (b : Byte) (s : State) : feedBytes [b] s = exec (.fwdByte b) s := by
  rw [feedBytes_cons]
  cases exec (.fwdByte b) s <;> rfl

theorem exec_of_frameParts {f : FunctionCode} {uc : Byte} {payload : List Byte} {i : Instr}
    (h : frameParts i = some (f, uc, payload)) (s : State) :
    exec i s = feedBytes (commandFrame s.par (codeValue s.par f) uc payload) s := by
  cases i <;> cases h <;> rfl

/-- Every instruction that writes the framer feeds it some bytes. -/
theorem exec_eq_feedBytes {i : Instr} (h : writerOf i = .fwdByte) (s : State) : ∃ bs, exec i s = feedBytes bs s := by
  cases hparts : frameParts i with
  | some parts => exact ⟨_, exec_of_frameParts hparts s⟩
  | none =>
    cases i <;> cases hparts
    case fwdByte.refl b => exact ⟨[b], (feedBytes_singleton b s).symm⟩
    all_goals cases h

/-- The state differs by the framer's items and by outcome tags only (R203). -/
def OnlyFramer (s t : State) : Prop :=
  ∃ (fbuf : Memory) (fcur : Byte) (ffilled : Bool) (os : List FwdOutcome),
    t = { s with fbuf := fbuf, fcur := fcur, ffilled := ffilled, history := s.history ++ os.map .fwd }

theorem OnlyFramer.refl (s : State) : OnlyFramer s s := ⟨s.fbuf, s.fcur, s.ffilled, [], by simp⟩

theorem OnlyFramer.trans {s t u : State} (hst : OnlyFramer s t) (htu : OnlyFramer t u) : OnlyFramer s u := by
  obtain ⟨_, _, _, os, rfl⟩ := hst
  obtain ⟨fbuf, fcur, ffilled, os', rfl⟩ := htu
  exact ⟨fbuf, fcur, ffilled, os ++ os', by simp⟩

/-- The tags of a byte that is not appended. -/
def dropTags : List FwdOutcome := [.dropBackpressure, .dropIdle, .dropFull]

/-- The tags of an appended byte after which the framer drops what it has. -/
def resetTags : List FwdOutcome := [.resetDesync, .resetUnrecognized, .resetChecksum]

/-- The frame start is appended like any other byte. -/
theorem started_eq_appendByte {s : State} {b : Byte} (hcursor : s.fcur = 0) :
    { s with fbuf := Memory.write s.fbuf 0 b, fcur := 1 } = appendByte b s := by
  rw [appendByte, hcursor]
  rfl

/-- A fed byte is dropped, or it is appended and the framer goes on, is emptied or is filled (R191 to R197). -/
theorem framerByte_shape {b : Byte} {s t : State} (h : framerByte b s = .next t) :
    (∃ o ∈ dropTags, t = s.emit (.fwd o)) ∨
    (s.ffilled = false ∧ s.fcur.toNat < s.par.cmdCap ∧
      (t = (appendByte b s).emit (.fwd .accept) ∨ (∃ o ∈ resetTags, t = resetFramer (appendByte b s) o) ∨
        t = fillFramer (appendByte b s))) := by
  obtain ⟨-, rfl⟩ | ⟨-, -, -, rfl⟩ | ⟨hfilled, hcursor, -, rfl⟩ | ⟨-, -, -, rfl⟩ | ⟨hfilled, -, hroom, second, -,
      ⟨-, rfl⟩ | ⟨-, -, rfl⟩ | ⟨-, -, fc, -, ⟨-, rfl⟩ | ⟨n, -, ⟨-, rfl⟩ | ⟨-, frame, -, ⟨-, rfl⟩ | ⟨-, rfl⟩⟩⟩⟩⟩ :=
    framerByte_next h
  · exact .inl ⟨_, by decide, rfl⟩
  · exact .inl ⟨_, by decide, rfl⟩
  · have hroom : s.fcur.toNat < s.par.cmdCap := by
      rw [(fcur_eq_zero_iff s).mp hcursor]
      exact Nat.lt_of_lt_of_le (by decide) (par_cmdCap_ge s)
    exact .inr ⟨hfilled, hroom, .inl (by rw [started_eq_appendByte hcursor])⟩
  · exact .inl ⟨_, by decide, rfl⟩
  · exact .inr ⟨hfilled, hroom, .inr (.inl ⟨_, by decide, rfl⟩)⟩
  · exact .inr ⟨hfilled, hroom, .inl rfl⟩
  · exact .inr ⟨hfilled, hroom, .inr (.inl ⟨_, by decide, rfl⟩)⟩
  · exact .inr ⟨hfilled, hroom, .inl rfl⟩
  · exact .inr ⟨hfilled, hroom, .inr (.inr rfl)⟩
  · exact .inr ⟨hfilled, hroom, .inr (.inl ⟨_, by decide, rfl⟩)⟩

theorem framerByte_onlyFramer {b : Byte} {s t : State} (h : framerByte b s = .next t) : OnlyFramer s t := by
  obtain ⟨o, -, rfl⟩ | ⟨-, -, rfl | ⟨o, -, rfl⟩ | rfl⟩ := framerByte_shape h
  all_goals exact ⟨_, _, _, [_], rfl⟩

theorem feedBytes_onlyFramer {bs : List Byte} {s t : State} (h : feedBytes bs s = .next t) : OnlyFramer s t :=
  feedBytes_keeps OnlyFramer.refl (fun _ _ _ => OnlyFramer.trans) (fun _ _ _ => framerByte_onlyFramer) bs h

/-- Settles O51: every writer of the framer is a feed. -/
theorem framerSharesNothingWithTheBuilder : Obligations.FramerSharesNothingWithTheBuilder := by
  intro i s t hwriter hst
  obtain ⟨bs, hfeed⟩ := exec_eq_feedBytes hwriter s
  obtain ⟨fbuf, fcur, ffilled, os, rfl⟩ := feedBytes_onlyFramer (hfeed ▸ hst)
  rfl

/-! `BUILD` (R140, R141). -/

/-- The range read stops at the first unwritten index. -/
theorem readRange_of_first_unwritten {m : Memory} {i : Nat} (hnone : Memory.read m i = none) (n : Nat) :
    ∀ {a : Nat}, a ≤ i → i < a + n → (∀ j, a ≤ j → j < i → written m j) → Memory.readRange m a n = .error i := by
  induction n with
  | zero => intro a hlo hhi; omega
  | succ n ih =>
    intro a hlo hhi hbefore
    obtain rfl | hlt := Nat.eq_or_lt_of_le hlo
    · simp only [Memory.readRange, hnone]
    · obtain ⟨v, hv⟩ := Option.isSome_iff_exists.mp (hbefore a le_rfl hlt)
      have later := ih hlt (by omega) fun j hj => hbefore j (by omega)
      simp only [Memory.readRange, hv, later]

theorem written_headedCmd_of_lt (s : State) {j : Nat} (h : j < 4) : written (headedCmd s) j :=
  written_writes _ (Nat.zero_le j) h

/-- Settles O30: the header that `BUILD` inserts is written, so the first unwritten byte it reads is the payload's. -/
theorem buildFaultsOnUnwrittenPayload : Obligations.BuildFaultsOnUnwrittenPayload := by
  intro s i hcap hlo hhi hnone hbefore
  have stops : Memory.readRange (headedCmd s) 0 (s.argL.toNat - 1) = .error i := by
    refine readRange_of_first_unwritten ((read_headedCmd_of_ge s hlo).trans hnone) _ (Nat.zero_le i) (by omega) ?_
    intro j _ hj
    obtain hheader | hpayload := Nat.lt_or_ge j 4
    · exact written_headedCmd_of_lt s hheader
    · rw [written, read_headedCmd_of_ge s hpayload]
      exact hbefore j hpayload hj
  rw [exec_build_of_length (by omega) hcap, withBytes, stops]

/-- A `BUILD` that answers has refused its length, or has built a written payload. -/
theorem build_next {s t : State} (h : exec .build s = .next t) :
    ((s.argL.toNat < 5 ∨ s.par.cmdCap < s.argL.toNat) ∧ t = s.report .badLength) ∨
    ∃ payload, 5 ≤ s.argL.toNat ∧ s.argL.toNat ≤ s.par.cmdCap ∧
      Memory.readRange s.cmd 4 (s.argL.toNat - 5) = .ok payload ∧
      t = (trackCommand s (builtCmd s payload)).report .none := by
  by_cases hbad : s.argL.toNat < 5 ∨ s.par.cmdCap < s.argL.toNat
  · rw [exec_build_of_badLength hbad] at h
    exact .inl ⟨hbad, (Host.Outcome.next.inj h).symm⟩
  obtain ⟨hlo, hhi⟩ : 5 ≤ s.argL.toNat ∧ s.argL.toNat ≤ s.par.cmdCap := by omega
  obtain ⟨payload, hpayload⟩ : ∃ payload, Memory.readRange s.cmd 4 (s.argL.toNat - 5) = .ok payload := by
    rw [exec_build_of_length hlo hhi] at h
    obtain ⟨body, hbody, -⟩ := withBytes_next h
    obtain ⟨hlength, reads⟩ := (readRange_ok_iff _ _ _ _).mp hbody
    refine readRange_of_written fun k hk => ?_
    rw [← read_headedCmd_of_ge s (Nat.le_add_right 4 k), ← Nat.zero_add (4 + k), reads (4 + k) (by omega),
      isSome_getElem?]
    omega
  rw [exec_build_of_payload hlo hhi hpayload] at h
  exact .inr ⟨payload, hlo, hhi, hpayload, (Host.Outcome.next.inj h).symm⟩

/-- A `BUILD` that leaves `ERR = 0x00` has built: the refusal leaves another code. -/
theorem built_of_no_error {s t : State} (h : exec .build s = .next t) (herr : t.err = 0x00) :
    ∃ payload, 5 ≤ s.argL.toNat ∧ s.argL.toNat ≤ s.par.cmdCap ∧
      Memory.readRange s.cmd 4 (s.argL.toNat - 5) = .ok payload ∧
      t = (trackCommand s (builtCmd s payload)).report .none := by
  obtain ⟨-, rfl⟩ | built := build_next h
  · exact absurd herr (by decide : errorCode .badLength ≠ 0x00)
  · exact built

/-- Building a frame that already validates writes every byte back (R142). -/
theorem read_builtCmd_of_valid {s : State} {rest : List Byte} (hlo : 5 ≤ s.argL.toNat)
    (hframe : Memory.readRange s.cmd 0 s.argL.toNat = .ok (frameHeader s.par s.argFc s.argUc ++ rest))
    (hvalid : valid8 (frameHeader s.par s.argFc s.argUc ++ rest) = true) :
    Memory.readRange s.cmd 4 (s.argL.toNat - 5) = .ok rest.dropLast ∧
      ∀ j, Memory.read (builtCmd s rest.dropLast) j = Memory.read s.cmd j := by
  obtain ⟨hlength, reads⟩ := (readRange_ok_iff _ _ _ _).mp hframe
  have rest_length : rest.length + 4 = s.argL.toNat := by simpa [frameHeader] using hlength
  have hrest : rest ≠ [] := by
    rintro rfl
    simp at rest_length
    omega
  have hpayload : Memory.readRange s.cmd 4 (s.argL.toNat - 5) = .ok rest.dropLast := by
    refine (readRange_ok_iff _ _ _ _).mpr ⟨by simp; omega, fun k hk => ?_⟩
    have at_k := reads (4 + k) (by omega)
    rw [Nat.zero_add, List.getElem?_append_right (by simp [frameHeader])] at at_k
    rw [at_k, List.getElem?_dropLast, if_pos (by omega)]
    simp [frameHeader]
  refine ⟨hpayload, fun j => ?_⟩
  obtain hin | hout := Nat.lt_or_ge j s.argL.toNat
  · have built := ((readRange_ok_iff _ _ _ _).mp (readRange_builtCmd hlo hpayload)).2 j hin
    rw [← eq_commandFrame_of_valid8 hrest hvalid, ← reads j hin, Nat.zero_add] at built
    exact built
  · exact read_builtCmd_of_ge _ hlo hout

/-- Settles O31. -/
theorem rebuildingAValidFrameKeepsIt : Obligations.RebuildingAValidFrameKeepsIt := by
  intro s rest hlo hhi hframe hvalid
  obtain ⟨hpayload, reads⟩ := read_builtCmd_of_valid hlo hframe hvalid
  exact ⟨_, exec_build_of_payload hlo hhi hpayload, rfl, reads⟩

/-! `XMIT` (R144). -/

/-- `XMIT` over the written bytes of a built command. -/
def transmitted (s : State) (frame : List Byte) : State :=
  { s with
    history := s.history ++ [.tx frame]
    rxCnt := 0
    retSize := 0
    ok := false
    err := 0x00
    cmd := Memory.writes s.cmd 0 (freeBytes s.freeCtr s.lastL.toNat)
    freeCtr := s.freeCtr + s.lastL.toNat }

theorem xmit_next {s t : State} (h : exec .xmit s = .next t) :
    (s.lastL = 0 ∧ t = s.report .badLength) ∨
    ∃ frame, s.lastL ≠ 0 ∧ Memory.readRange s.cmd 0 s.lastL.toNat = .ok frame ∧ t = transmitted s frame := by
  by_cases hbuilt : s.lastL = 0
  · rw [exec_xmit_of_nothing_built hbuilt] at h
    exact .inl ⟨hbuilt, (Host.Outcome.next.inj h).symm⟩
  obtain ⟨frame, hframe, -⟩ := withBytes_next ((if_neg hbuilt).symm.trans h)
  rw [exec_xmit_of_frame hbuilt hframe] at h
  exact .inr ⟨frame, hbuilt, hframe, (Host.Outcome.next.inj h).symm⟩

/-! `VALIDATE` (R152, R153). -/

/-- The check of `VALIDATE` that fails first, if any, with the code that it leaves (R153). -/
inductive FirstFailure (s : State) : ErrorKind → Prop
  | length (h : s.argR.toNat < 5 ∨ s.par.retCap < s.argR.toNat) : FirstFailure s .badLength
  | timeout (hlo : 5 ≤ s.argR.toNat) (hhi : s.argR.toNat ≤ s.par.retCap) (h : s.rxCnt.toNat < s.argR.toNat) :
      FirstFailure s .transportTimeout
  | header {frame : List Byte} (received : Received s frame)
      (h : frame.take 4 ≠ frameHeader s.par s.lastFc s.lastUc) : FirstFailure s .headerMismatch
  | checksum {frame : List Byte} (received : Received s frame)
      (hheader : frame.take 4 = frameHeader s.par s.lastFc s.lastUc) (h : sum8 frame ≠ 0) :
      FirstFailure s .checksumMismatch

theorem FirstFailure.exec_validate {s : State} {e : ErrorKind} (h : FirstFailure s e) :
    exec .validate s = .next (s.failExchange e) := by
  cases h with
  | length h => exact exec_validate_of_badLength h
  | timeout hlo hhi h => exact exec_validate_of_timeout hlo hhi h
  | header received h => exact received.exec_validate_of_wrong_header h
  | checksum received hheader h => exact received.exec_validate_of_wrong_sum hheader h

/-- `VALIDATE` over a valid answer. -/
def accepted (s : State) : State :=
  { s with retSize := if s.argFlags.getLsbD 1 then 0 else s.argR, ok := true, err := 0x00 }

/-- A received frame that the tracked command accepts (R152). -/
structure ValidFrame (s : State) (frame : List Byte) : Prop where
  received : Received s frame
  header : frame.take 4 = frameHeader s.par s.lastFc s.lastUc
  sum : sum8 frame = 0

theorem ValidFrame.exec_validate {s : State} {frame : List Byte} (h : ValidFrame s frame) :
    exec .validate s = .next (accepted s) :=
  h.received.exec_validate_of_valid h.header h.sum

/-- A `VALIDATE` that answers has failed a first check, or has accepted a frame. -/
theorem validate_next {s t : State} (h : exec .validate s = .next t) :
    (∃ e, FirstFailure s e ∧ t = s.failExchange e) ∨ ∃ frame, ValidFrame s frame ∧ t = accepted s := by
  have failed {e : ErrorKind} (he : FirstFailure s e) : ∃ e, FirstFailure s e ∧ t = s.failExchange e :=
    ⟨e, he, Host.Outcome.next.inj (h.symm.trans he.exec_validate)⟩
  by_cases hbad : s.argR.toNat < 5 ∨ s.par.retCap < s.argR.toNat
  · exact .inl (failed (.length hbad))
  obtain ⟨hlo, hhi⟩ : 5 ≤ s.argR.toNat ∧ s.argR.toNat ≤ s.par.retCap := by omega
  by_cases htimeout : s.rxCnt.toNat < s.argR.toNat
  · exact .inl (failed (.timeout hlo hhi htimeout))
  obtain ⟨frame, hframe, -⟩ :=
    withBytes_next ((if_neg htimeout).symm.trans ((exec_validate_of_length hlo hhi).symm.trans h))
  have received : Received s frame := ⟨hlo, hhi, Nat.not_lt.mp htimeout, hframe⟩
  by_cases hheader : frame.take 4 = frameHeader s.par s.lastFc s.lastUc
  · by_cases hsum : sum8 frame = 0
    · have valid : ValidFrame s frame := ⟨received, hheader, hsum⟩
      exact .inr ⟨frame, valid, Host.Outcome.next.inj (h.symm.trans valid.exec_validate)⟩
    · exact .inl (failed (.checksum received hheader hsum))
  · exact .inl (failed (.header received hheader))

/-- A failed `VALIDATE` leaves what its checks look at. -/
theorem FirstFailure.after_failExchange {s : State} {e : ErrorKind} (h : FirstFailure s e) :
    FirstFailure (s.failExchange e) e := by
  cases h with
  | length h => exact .length h
  | timeout hlo hhi h => exact .timeout hlo hhi h
  | header received h => exact .header ⟨received.lo, received.hi, received.arrived, received.bytes⟩ h
  | checksum received hheader h =>
    exact .checksum ⟨received.lo, received.hi, received.arrived, received.bytes⟩ hheader h

/-- An accepting `VALIDATE` leaves what its checks look at. -/
theorem ValidFrame.after_accepted {s : State} {frame : List Byte} (h : ValidFrame s frame) :
    ValidFrame (accepted s) frame :=
  ⟨⟨h.received.lo, h.received.hi, h.received.arrived, h.received.bytes⟩, h.header, h.sum⟩

/-- Settles O36: the second run meets the same first failure, or accepts the same frame, and writes the same values. -/
theorem validateRepeatsItsVerdict : Obligations.ValidateRepeatsItsVerdict := by
  intro s t h
  obtain ⟨e, failure, rfl⟩ | ⟨frame, valid, rfl⟩ := validate_next h
  · exact failure.after_failExchange.exec_validate
  · exact valid.after_accepted.exec_validate

/-! `POLL` (R159), `FWD_DRAIN` (R200), `RX_BYTE` (R151) and the ready edge (R242). -/

theorem poll_next {s t : State} (h : exec .poll s = .next t) :
    (∃ fc, dueFetch s = some fc ∧
      t = { s with argFc := fc, argUc := s.lastUc, argFlags := 0, fetchDue := true, err := 0x00 }) ∨
    (dueFetch s = none ∧ t = { s with fetchDue := false, err := 0x00 }) := by
  rw [exec_poll] at h
  cases hdue : dueFetch s with
  | some fc =>
    rw [hdue] at h
    exact .inl ⟨fc, rfl, (Host.Outcome.next.inj h).symm⟩
  | none =>
    rw [hdue] at h
    exact .inr ⟨rfl, (Host.Outcome.next.inj h).symm⟩

/-- `FWD_DRAIN` of a held frame (R200). -/
def drainedFrame (s : State) (fc uc : Byte) (n : Nat) (frame : List Byte) : State :=
  { s with
    cmd := Memory.writes s.cmd 0 frame
    ffilled := false
    argFc := fc
    argUc := uc
    argL := BitVec.ofNat 8 n
    drained := true
    err := 0x00 }

theorem fwdDrain_next {s t : State} (h : exec .fwdDrain s = .next t) :
    (s.ffilled = false ∧ t = { s with drained := false, err := 0x00 }) ∨
    ∃ fc uc n frame, FilledFrame s fc uc n frame ∧ t = drainedFrame s fc uc n frame := by
  by_cases hfilled : s.ffilled = true
  case neg =>
    have hempty : s.ffilled = false := Bool.eq_false_iff.mpr hfilled
    rw [exec_fwdDrain_of_not_filled hempty] at h
    exact .inl ⟨hempty, (Host.Outcome.next.inj h).symm⟩
  case pos =>
    obtain ⟨fc, hfc, hread⟩ := withByte_next ((if_pos hfilled).symm.trans h)
    cases hn : fwdLen s.par fc with
    | none =>
      simp only [hn] at hread
      cases hread
    | some n =>
      simp only [hn] at hread
      obtain ⟨frame, hframe, hread⟩ := withBytes_next hread
      obtain ⟨uc, huc, -⟩ := withByte_next hread
      have held : FilledFrame s fc uc n frame := ⟨hfilled, hfc, huc, hn, hframe⟩
      exact .inr ⟨fc, uc, n, frame, held, Host.Outcome.next.inj (h.symm.trans held.exec_fwdDrain)⟩

theorem rxByte_next {s t : State} {b : Byte} (h : exec (.rxByte b) s = .next t) :
    (s.rxCnt.toNat < s.par.retCap ∧
      t = { s with ret := Memory.write s.ret s.rxCnt.toNat b, rxCnt := s.rxCnt + 1 }) ∨ t = s := by
  obtain hroom | hfull := Nat.lt_or_ge s.rxCnt.toNat s.par.retCap
  · rw [exec_rxByte_of_room b hroom] at h
    exact .inl ⟨hroom, (Host.Outcome.next.inj h).symm⟩
  · rw [exec_rxByte_of_full b hfull] at h
    exact .inr (Host.Outcome.next.inj h).symm

theorem rdyEdge_next {s t : State} {e : LineEdge} (h : exec (.rdyEdge e) s = .next t) :
    t = { s with rdyFlag := true } ∨ t = s := by
  obtain rfl := Host.Outcome.next.inj h
  exact ite_eq_or_eq ..

end Sys2Proof.Proofs
end

section
/-! What a step can do: every next state that an instruction can answer, and the statements that follow case by case. -/

namespace Sys2Proof.Proofs

open Sys2Proof.Machine Sys2Proof.Laws Sys2Proof.Safety

/-- `s` with other values in the operand registers. -/
def withOperands (s : State) (fc uc len : Byte) (r : Half) (flags : BitVec 2) (it : Half) (avg ae : Byte) : State :=
  { s with argFc := fc, argUc := uc, argL := len, argR := r, argFlags := flags, argIt := it, argAvg := avg,
           argAe := ae }

theorem storeReg_eq_withOperands (s : State) (v : Byte) (r : Reg) :
    ∃ fc uc len rr flags it avg ae, storeReg s v r = withOperands s fc uc len rr flags it avg ae := by
  cases r <;> exact ⟨_, _, _, _, _, _, _, _, rfl⟩

/-- The next states that an instruction can answer. A plain write is to no trigger offset here (`carried`). -/
inductive Effect (s : State) : Instr → State → Prop
  | nop : Effect s .nop (s.report .none)
  | reservedOp (code : Byte) : Effect s (.reservedOp code) (s.report .illegalOp)
  | init : Effect s .init (initialised s)
  | buildRejected : Effect s .build (s.report .badLength)
  | built {payload : List Byte} (hlo : 5 ≤ s.argL.toNat) (hhi : s.argL.toNat ≤ s.par.cmdCap)
      (hpayload : Memory.readRange s.cmd 4 (s.argL.toNat - 5) = .ok payload) :
      Effect s .build ((trackCommand s (builtCmd s payload)).report .none)
  | payloadAcq : Effect s .payloadAcq { s with cmd := Memory.writes s.cmd 4 (acqBytes (acqOperands s)), err := 0x00 }
  | xmitRejected : Effect s .xmit (s.report .badLength)
  | transmitted {frame : List Byte} (hbuilt : s.lastL ≠ 0)
      (hframe : Memory.readRange s.cmd 0 s.lastL.toNat = .ok frame) : Effect s .xmit (transmitted s frame)
  | validateFailed {e : ErrorKind} (failure : FirstFailure s e) : Effect s .validate (s.failExchange e)
  | validated {frame : List Byte} (valid : ValidFrame s frame) : Effect s .validate (accepted s)
  | restore : Effect s .restore { s with cmd := s.bak, err := 0x00 }
  | synthStandby : Effect s .synthStandby { s with
      ret := Memory.writes s.ret 0 (standbyFrame s.par s.argUc)
      retSize := BitVec.ofNat 16 s.par.rStandby
      ok := true
      err := 0x00 }
  | retClr : Effect s .retClr { s with retSize := 0, err := 0x00 }
  | rdyClr : Effect s .rdyClr { s with rdyFlag := false, err := 0x00 }
  | fetchDue (fc : Byte) :
      Effect s .poll { s with argFc := fc, argUc := s.lastUc, argFlags := 0, fetchDue := true, err := 0x00 }
  | noFetchDue : Effect s .poll { s with fetchDue := false, err := 0x00 }
  | notDrained : Effect s .fwdDrain { s with drained := false, err := 0x00 }
  | drained {fc uc : Byte} {n : Nat} {frame : List Byte} (held : FilledFrame s fc uc n frame) :
      Effect s .fwdDrain (drainedFrame s fc uc n frame)
  | csClr : Effect s .csClr { s with csAcc := 0x00, err := 0x00 }
  | csAdd (b : Byte) : Effect s (.csAdd b) { s with csAcc := s.csAcc + b }
  | regRead (off : Half) (v : Byte) : Effect s (.regRead off) (s.emit (.readData off v))
  | operandWritten (off : Half) (v fc uc len : Byte) (r : Half) (flags : BitVec 2) (it : Half) (avg ae : Byte) :
      Effect s (.regWrite off v) (withOperands s fc uc len r flags it avg ae)
  | commandWritten {off : Half} (v : Byte) {i : Nat} (hloc : locate s.par off = .cmd i) (hi : i < s.par.cmdCap) :
      Effect s (.regWrite off v) { s with cmd := Memory.write s.cmd i v }
  | writeIgnored (off : Half) (v : Byte) : Effect s (.regWrite off v) s
  | received (b : Byte) (hroom : s.rxCnt.toNat < s.par.retCap) :
      Effect s (.rxByte b) { s with ret := Memory.write s.ret s.rxCnt.toNat b, rxCnt := s.rxCnt + 1 }
  | dropped (b : Byte) : Effect s (.rxByte b) s
  | readyEdge (e : LineEdge) : Effect s (.rdyEdge e) { s with rdyFlag := true }
  | otherEdge (e : LineEdge) : Effect s (.rdyEdge e) s
  | fed {i : Instr} {bs : List Byte} {t : State} (hwriter : writerOf i = .fwdByte) (hfeed : feedBytes bs s = .next t) :
      Effect s i t

/-- The instruction whose meaning an instruction has: a plain write to a trigger offset is the operation that it starts
(log 17). -/
def carried : Instr → Instr
  | .regWrite off v => decodeWrite off v
  | i => i

theorem exec_carried (i : Instr) (s : State) : exec (carried i) s = exec i s := by
  cases i
  case regWrite off v => exact exec_decodeWrite off v s
  all_goals rfl

/-- A well-formed plain write is to no trigger offset (R97, R99). -/
theorem carried_of_wellFormed {p : Params} {i : Instr} (h : wellFormed p i = true) : carried i = i := by
  cases i
  case regWrite off v =>
    obtain ⟨hop, hfwd, hcs⟩ := of_decide_eq_true h
    exact decodeWrite_of_plain v hop hfwd hcs
  all_goals rfl

theorem locate_cmd_lt {p : Params} {off : Half} {i : Nat} (h : locate p off = .cmd i) : i < p.cmdCap := by
  obtain hlow | hhigh := Nat.lt_or_ge off.toNat 0x100
  · rw [locate_of_register hlow] at h
    cases hreg : regAt off.toNat <;> simp [hreg] at h
  · rw [locate_of_window hhigh] at h
    split_ifs at h with hcmd
    rw [Location.cmd.injEq] at h
    omega

theorem not_trigger_of_offset {r : Reg} (hop : regOffset r ≠ 0x000) (hfwd : regOffset r ≠ 0x00D)
    (hcs : regOffset r ≠ 0x017) : r ∉ [Reg.op, .fwdData, .csData] := by
  simp only [List.mem_cons, List.not_mem_nil, or_false]
  rintro (rfl | rfl | rfl)
  · exact hop rfl
  · exact hfwd rfl
  · exact hcs rfl

theorem regWrite_effect {off : Half} {v : Byte} {s t : State} (hop : off ≠ 0x000) (hfwd : off ≠ 0x00D)
    (hcs : off ≠ 0x017) (h : exec (.regWrite off v) s = .next t) : Effect s (.regWrite off v) t := by
  cases hloc : locate s.par off with
  | reg r =>
    obtain rfl := regOffset_of_locate hloc
    rw [exec_regWrite_register v (not_trigger_of_offset hop hfwd hcs)] at h
    obtain ⟨fc, uc, len, rr, flags, it, avg, ae, stored⟩ := storeReg_eq_withOperands s v r
    rw [← Host.Outcome.next.inj h, stored]
    exact .operandWritten ..
  | cmd i =>
    rw [exec_regWrite_cmd v hloc] at h
    cases h
    exact .commandWritten v hloc (locate_cmd_lt hloc)
  | fbuf i =>
    rw [exec_regWrite_ignored v (.inl ⟨i, hloc⟩)] at h
    cases h
    exact .writeIgnored off v
  | ret i =>
    rw [exec_regWrite_ignored v (.inr (.inl ⟨i, hloc⟩))] at h
    cases h
    exact .writeIgnored off v
  | reserved =>
    rw [exec_regWrite_ignored v (.inr (.inr hloc))] at h
    cases h
    exact .writeIgnored off v

theorem regRead_effect {off : Half} {s t : State} (h : exec (.regRead off) s = .next t) :
    Effect s (.regRead off) t := by
  cases hread : readLocation s (locate s.par off) with
  | ok v =>
    rw [exec_regRead_of_value rfl hread] at h
    cases h
    exact .regRead off v
  | error f =>
    rw [exec_regRead_of_fault rfl hread] at h
    cases h

theorem decodeOp_ne_regWrite (code : Byte) (off : Half) (v : Byte) : decodeOp code ≠ .regWrite off v := by
  unfold decodeOp
  split <;> nofun

/-- Every instruction but a plain write has one of its listed effects. -/
theorem exec_effect_of_not_regWrite {i : Instr} {s t : State} (hi : ∀ off v, i ≠ .regWrite off v)
    (h : exec i s = .next t) : Effect s i t := by
  by_cases hwriter : writerOf i = .fwdByte
  · obtain ⟨bs, hfeed⟩ := exec_eq_feedBytes hwriter s
    exact .fed hwriter (hfeed ▸ h)
  cases i
  case regWrite off v => exact absurd rfl (hi off v)
  case regRead => exact regRead_effect h
  case build =>
    obtain ⟨-, rfl⟩ | ⟨payload, hlo, hhi, hpayload, rfl⟩ := build_next h
    · exact .buildRejected
    · exact .built hlo hhi hpayload
  case xmit =>
    obtain ⟨-, rfl⟩ | ⟨frame, hbuilt, hframe, rfl⟩ := xmit_next h
    · exact .xmitRejected
    · exact .transmitted hbuilt hframe
  case validate =>
    obtain ⟨e, failure, rfl⟩ | ⟨frame, valid, rfl⟩ := validate_next h
    · exact .validateFailed failure
    · exact .validated valid
  case poll =>
    obtain ⟨fc, -, rfl⟩ | ⟨-, rfl⟩ := poll_next h
    · exact .fetchDue fc
    · exact .noFetchDue
  case fwdDrain =>
    obtain ⟨-, rfl⟩ | ⟨fc, uc, n, frame, held, rfl⟩ := fwdDrain_next h
    · exact .notDrained
    · exact .drained held
  case rxByte b =>
    obtain ⟨hroom, rfl⟩ | rfl := rxByte_next h
    · exact .received b hroom
    · exact .dropped b
  case rdyEdge e =>
    obtain rfl | rfl := rdyEdge_next h
    · exact .readyEdge e
    · exact .otherEdge e
  case nop => cases h; exact .nop
  case reservedOp code => cases h; exact .reservedOp code
  case init => cases h; exact .init
  case payloadAcq => cases h; exact .payloadAcq
  case restore => cases h; exact .restore
  case synthStandby => cases h; exact .synthStandby
  case retClr => cases h; exact .retClr
  case rdyClr => cases h; exact .rdyClr
  case csClr => cases h; exact .csClr
  case csAdd b => cases h; exact .csAdd b
  all_goals exact absurd rfl hwriter

/-- Every instruction has one of the listed effects, a plain write those of the instruction it carries. -/
theorem exec_effect {i : Instr} {s t : State} (h : exec i s = .next t) : Effect s (carried i) t := by
  cases i
  case regWrite off v =>
    rw [← exec_carried] at h
    change exec (decodeWrite off v) s = _ at h
    change Effect s (decodeWrite off v) t
    unfold decodeWrite at h ⊢
    split_ifs at h ⊢ with hop hfwd hcs
    · exact exec_effect_of_not_regWrite (decodeOp_ne_regWrite v) h
    · exact exec_effect_of_not_regWrite nofun h
    · exact exec_effect_of_not_regWrite nofun h
    · exact regWrite_effect hop hfwd hcs h
  all_goals exact exec_effect_of_not_regWrite nofun h

theorem exec_effect_of_wellFormed {p : Params} {i : Instr} {s t : State} (hwf : wellFormed p i = true)
    (h : exec i s = .next t) : Effect s i t :=
  carried_of_wellFormed hwf ▸ exec_effect h

/-! What every effect leaves. -/

section
variable {i : Instr} {s t : State}

theorem Effect.cfg_eq (h : Effect s i t) : t.cfg = s.cfg := by
  cases h
  case fed bs hwriter hfeed =>
    obtain ⟨_, _, _, _, rfl⟩ := feedBytes_onlyFramer hfeed
    rfl
  all_goals rfl

theorem Effect.pending_eq (h : Effect s i t) : t.pending = s.pending := by
  cases h
  case fed bs hwriter hfeed =>
    obtain ⟨_, _, _, _, rfl⟩ := feedBytes_onlyFramer hfeed
    rfl
  all_goals rfl

/-- Only a transmission, a host read and a fed byte leave events. -/
theorem Effect.history_grows (h : Effect s i t) : ∃ es, t.history = s.history ++ es := by
  cases h
  case transmitted | regRead => exact ⟨_, rfl⟩
  case fed bs hwriter hfeed =>
    obtain ⟨_, _, _, _, rfl⟩ := feedBytes_onlyFramer hfeed
    exact ⟨_, rfl⟩
  all_goals exact ⟨[], (List.append_nil _).symm⟩

end

/-- Settles O6. -/
theorem parametersStayAndHistoryGrows : Obligations.ParametersStayAndHistoryGrows := by
  intro i s t hst
  have heffect := exec_effect hst
  exact ⟨heffect.cfg_eq, heffect.pending_eq, heffect.history_grows⟩

/-! Who writes what (R22, R223). -/

/-- Settles O27: each effect shows which items it writes. -/
theorem onlyTheListedWritersWrite : Obligations.OnlyTheListedWritersWrite := by
  intro i s t hwf hst w
  cases exec_effect_of_wellFormed hwf hst
  case fed bs hwriter hfeed =>
    obtain ⟨_, _, _, _, rfl⟩ := feedBytes_onlyFramer hfeed
    simp [w, hwriter]
  all_goals
    simp [w, writerOf, opWriters, initialised, trackCommand, transmitted, accepted, drainedFrame, withOperands]

/-- The error kinds that an operation can report; the framer's are not among them (R201, R241). -/
def reportedKinds : List ErrorKind :=
  [.none, .checksumMismatch, .headerMismatch, .transportTimeout, .badLength, .illegalOp]

theorem errorCode_mem {e : ErrorKind} (h : e ∈ reportedKinds) : errorCode e ∈ reportedKinds.map errorCode :=
  List.mem_map_of_mem h

theorem FirstFailure.reported {s : State} {e : ErrorKind} (h : FirstFailure s e) : e ∈ reportedKinds := by
  cases h <;> decide

/-- Each operation's effect leaves one of the codes. -/
theorem Effect.err_of_op {i : Instr} {s t : State} (h : Effect s i t) (hop : writerOf i ∈ opWriters) :
    t.err ∈ reportedKinds.map errorCode := by
  cases h
  case fed hwriter hfeed => exact absurd (hwriter ▸ hop) (by decide)
  case csAdd | regRead | operandWritten | commandWritten | writeIgnored | received | dropped | readyEdge | otherEdge =>
    simp [writerOf, opWriters] at hop
  case validateFailed e failure => exact errorCode_mem failure.reported
  case reservedOp => exact errorCode_mem (e := .illegalOp) (by decide)
  case buildRejected | xmitRejected => exact errorCode_mem (e := .badLength) (by decide)
  all_goals exact errorCode_mem (e := .none) (by decide)

/-- Settles O26: what an operation writes is one of the codes, and no other instruction is a writer of `ERR`. -/
theorem onlyOpOperationsWriteErr : Obligations.OnlyOpOperationsWriteErr := by
  intro i s t hwf hst
  refine ⟨(exec_effect_of_wellFormed hwf hst).err_of_op, fun hnot => ?_⟩
  obtain ⟨-, -, -, -, -, -, -, -, err, -⟩ := onlyTheListedWritersWrite i s t hwf hst
  exact err.resolve_right hnot

end Sys2Proof.Proofs
end

section
/-! The invariant of the block (10_state.md R50, 42_forward_framer.md R199): power-on meets it, every step keeps it, and
from a state that meets it every instruction runs. -/

namespace Sys2Proof.Proofs

open Sys2Proof.Machine Sys2Proof.Laws Sys2Proof.Safety

/-! Written bytes and bounds (R45 to R49). -/

theorem written_of_readRange {m : Memory} {n i : Nat} {vs : List Byte} (h : Memory.readRange m 0 n = .ok vs)
    (hi : i < n) : written m i := by
  obtain ⟨hlength, reads⟩ := (readRange_ok_iff _ _ _ _).mp h
  have at_i := reads i hi
  rw [Nat.zero_add] at at_i
  rw [written, at_i, isSome_getElem?, hlength]
  exact hi

/-- No write unwrites a byte. -/
theorem written_write {m : Memory} {i : Nat} (h : written m i) (a : Nat) (v : Byte) :
    written (Memory.write m a v) i := by
  rw [written, read_write]
  split_ifs
  · rfl
  · exact h

theorem written_writes_of_written {m : Memory} {i : Nat} (h : written m i) (a : Nat) (vs : List Byte) :
    written (Memory.writes m a vs) i := by
  induction vs generalizing m a with
  | nil => exact h
  | cons v vs ih => exact ih (written_write h a v) (a + 1)

theorem bounded_write {m : Memory} {cap a : Nat} (h : bounded m cap) (ha : a < cap) (v : Byte) :
    bounded (Memory.write m a v) cap := by
  refine ⟨write_wf h.1 a v, fun c hc => ?_⟩
  obtain hnew | hold := mem_write hc
  · exact hnew ▸ ha
  · exact h.2 c hold

theorem bounded_writes {m : Memory} {cap : Nat} (h : bounded m cap) {a : Nat} {vs : List Byte}
    (ha : a + vs.length ≤ cap) : bounded (Memory.writes m a vs) cap := by
  induction vs generalizing m a with
  | nil => exact h
  | cons v vs ih =>
    rw [List.length_cons] at ha
    exact ih (bounded_write h (by omega) v) (by omega)

/-! Power-on. -/

/-- An empty framer meets its invariant whatever `FBUF` holds. -/
theorem framerInv_of_idle {s : State} (h : idleFramer s) : FramerInv s := by
  obtain ⟨hfilled, hcursor⟩ := h
  have hzero : s.fcur.toNat = 0 := (fcur_eq_zero_iff s).mp hcursor
  exact {
    cursor := by omega
    progress := by omega
    start := by omega
    second := by omega
    code := by omega
    filled := fun h => absurd h (ne_true_of_eq_false hfilled) }

theorem bounded_nil (cap : Nat) : bounded [] cap := ⟨List.Pairwise.nil, nofun⟩

theorem blockInv_resetWith (c : LegalParams) : BlockInv (State.resetWith c) where
  buffers := ⟨bounded_nil _, bounded_nil _, bounded_nil _, bounded_nil _⟩
  framer := framerInv_of_idle ⟨rfl, rfl⟩
  exchange := {
    async := fun h => absurd rfl h
    received := Nat.zero_le _
    receivedWritten := nofun
    packet := .inl rfl
    packetOk := fun h => absurd rfl h
    command := .inl rfl
    commandWritten := nofun
    verdict := errorCode_mem (e := .none) (by decide) }

/-- Settles O58. -/
theorem resetMeetsTheInvariant : Obligations.ResetMeetsTheInvariant :=
  ⟨blockInv_resetWith, blockInv_resetWith _⟩

/-! Fed bytes keep the framer's invariant (R199). -/

/-- An accepted byte behind `PREFIX0, PREFIX1` keeps the invariant, where the code check has been passed if three bytes
are in. -/
theorem framerInv_of_appended {s : State} {b : Byte} (inv : FramerInv s) (hfilled : s.ffilled = false)
    (hprogress : 1 ≤ s.fcur.toNat) (hsecond : Memory.read (appendByte b s).fbuf 1 = some s.par.prefix1)
    (hcode : 2 ≤ s.fcur.toNat → ∃ fc n, Memory.read (appendByte b s).fbuf 2 = some fc ∧ fwdLen s.par fc = some n ∧
      s.fcur.toNat + 1 < n) (e : Event) : FramerInv ((appendByte b s).emit e) := by
  have cursor : (appendByte b s).fcur.toNat = s.fcur.toNat + 1 := appendByte_fcur_toNat b inv.cursor
  exact {
    cursor := by
      rw [emit_fcur, cursor]
      by_cases h : 2 ≤ s.fcur.toNat
      · obtain ⟨fc, n, -, hn, hlt⟩ := hcode h
        have := fwdLen_eq hn
        omega
      · omega
    progress := by
      intro i hi
      rw [emit_fcur, cursor] at hi
      rw [emit_fbuf, written, read_appendByte]
      split_ifs with heq
      · rfl
      · exact inv.progress i (by omega)
    start := fun _ => (read_appendByte_below hprogress).trans (inv.start hprogress)
    second := fun _ => hsecond
    code := by
      intro h
      rw [emit_fcur, cursor] at h ⊢
      exact hcode (by omega)
    filled := fun h => absurd h (ne_true_of_eq_false hfilled) }

/-- A complete, valid frame in `FBUF` is what the invariant asks of a filled framer. -/
theorem framerInv_fillFramer {s : State} {fc : Byte} {n : Nat} {frame : List Byte}
    (hstart : Memory.read s.fbuf 0 = some s.par.prefix0) (hsecond : Memory.read s.fbuf 1 = some s.par.prefix1)
    (hcode : Memory.read s.fbuf 2 = some fc) (hn : fwdLen s.par fc = some n)
    (hframe : Memory.readRange s.fbuf 0 n = .ok frame) (hsum : sum8 frame = 0) : FramerInv (fillFramer s) := by
  have hfour : 4 ≤ n := by have := fwdLen_eq hn; omega
  obtain ⟨hlength, reads⟩ := (readRange_ok_iff _ _ _ _).mp hframe
  obtain ⟨uc, huc⟩ := Option.isSome_iff_exists.mp (written_of_readRange hframe (i := 3) (by omega))
  have header : frame.take 4 = frameHeader s.par fc uc :=
    Except.ok.inj ((readRange_take hframe hfour).symm.trans ((readRange_four_iff ..).mpr ⟨hstart, hsecond, hcode, huc⟩))
  have split : frame = frameHeader s.par fc uc ++ frame.drop 4 := by rw [← header, List.take_append_drop]
  rw [split] at hframe hsum
  exact {
    cursor := Nat.zero_le 9
    progress := nofun
    start := nofun
    second := nofun
    code := nofun
    filled := fun _ => ⟨rfl, uc, fc, n, frame.drop 4, hframe, hn, hsum⟩ }

/-- The frame start alone in `FBUF`. -/
theorem framerInv_of_start {s : State} {b : Byte} (hfilled : s.ffilled = false) (hcursor : s.fcur.toNat = 1)
    (hb : Memory.read s.fbuf 0 = some b) (hstart : b = s.par.prefix0) : FramerInv s where
  cursor := by omega
  progress := by
    intro i hi
    obtain rfl : i = 0 := by omega
    rw [written, hb]
    rfl
  start := fun _ => hstart ▸ hb
  second := by omega
  code := by omega
  filled := fun h => absurd h (ne_true_of_eq_false hfilled)

/-- Case by case of `framerByte_next`: a byte is dropped, or it starts a frame, or it is appended and then the framer is
emptied, goes on or holds a complete frame. -/
theorem framerByte_keeps_framerInv {b : Byte} {s t : State} (h : framerByte b s = .next t) (inv : FramerInv s) :
    FramerInv t := by
  have unchanged (e : Event) : FramerInv (s.emit e) :=
    ⟨inv.cursor, inv.progress, inv.start, inv.second, inv.code, inv.filled⟩
  have emptied (hfilled : s.ffilled = false) (o : FwdOutcome) : FramerInv (resetFramer (appendByte b s) o) :=
    framerInv_of_idle ⟨hfilled, rfl⟩
  have in_progress (hcur : s.fcur ≠ 0) : 1 ≤ s.fcur.toNat :=
    Nat.one_le_iff_ne_zero.mpr (mt (fcur_eq_zero_iff s).mpr hcur)
  have count : (s.fcur + 1).toNat = s.fcur.toNat + 1 := appendByte_fcur_toNat b inv.cursor
  obtain ⟨-, rfl⟩ | ⟨-, -, -, rfl⟩ | ⟨hfilled, hcur, hb, rfl⟩ | ⟨-, -, -, rfl⟩ | ⟨hfilled, hcur, -, second, hsecond,
      ⟨-, rfl⟩ | ⟨rfl, hshort, rfl⟩ | ⟨rfl, hthree, fc, hfc, ⟨-, rfl⟩ | ⟨n, hn, ⟨hne, rfl⟩ | ⟨heq, frame, hframe,
      ⟨hsum, rfl⟩ | ⟨-, rfl⟩⟩⟩⟩⟩ := framerByte_next h
  · exact unchanged _
  · exact unchanged _
  · exact framerInv_of_start hfilled rfl (read_write_same _ _ _) hb
  · exact unchanged _
  · exact emptied hfilled _
  · exact framerInv_of_appended inv hfilled (in_progress hcur) hsecond (by omega) _
  · exact emptied hfilled _
  · refine framerInv_of_appended inv hfilled (in_progress hcur) hsecond (fun htwo => ⟨fc, n, hfc, hn, ?_⟩) _
    obtain htwo | hpast := Nat.eq_or_lt_of_le htwo
    · have := fwdLen_eq hn
      omega
    · obtain ⟨fc', n', hfc', hn', hlt⟩ := inv.code hpast
      rw [read_appendByte_below hpast, hfc', Option.some.injEq] at hfc
      rw [hfc, hn, Option.some.injEq] at hn'
      omega
  · have start := (read_appendByte_below (b := b) (in_progress hcur)).trans (inv.start (in_progress hcur))
    exact framerInv_fillFramer start hsecond hfc hn hframe hsum
  · exact emptied hfilled _

/-- A fed byte is appended only where there is room (R191, R197). -/
theorem framerByte_keeps_bounded {b : Byte} {s t : State} (h : framerByte b s = .next t)
    (inv : bounded s.fbuf s.par.cmdCap) : bounded t.fbuf t.par.cmdCap := by
  obtain ⟨o, -, rfl⟩ | ⟨-, hroom, rfl | ⟨o, -, rfl⟩ | rfl⟩ := framerByte_shape h
  case inl => exact inv
  all_goals exact bounded_write inv hroom b

theorem feedBytes_keeps_framerInv {bs : List Byte} {s t : State} (h : feedBytes bs s = .next t) :
    FramerInv s → FramerInv t :=
  feedBytes_keeps (P := fun s t => FramerInv s → FramerInv t) (fun _ => id) (fun _ _ _ hst htu => htu ∘ hst)
    (fun _ _ _ => framerByte_keeps_framerInv) bs h

theorem feedBytes_keeps_bounded {bs : List Byte} {s t : State} (h : feedBytes bs s = .next t) :
    bounded s.fbuf s.par.cmdCap → bounded t.fbuf t.par.cmdCap :=
  feedBytes_keeps (P := fun s t => bounded s.fbuf s.par.cmdCap → bounded t.fbuf t.par.cmdCap) (fun _ => id)
    (fun _ _ _ hst htu => htu ∘ hst) (fun _ _ _ => framerByte_keeps_bounded) bs h

/-! Every effect keeps each part of the invariant. -/

section
variable {i : Instr} {s t : State}

theorem Effect.keeps_framerInv (h : Effect s i t) (inv : FramerInv s) : FramerInv t := by
  cases h
  case init => exact framerInv_of_idle ⟨rfl, rfl⟩
  case drained held => exact framerInv_of_idle ⟨rfl, (inv.filled held.filled).1⟩
  case fed bs hwriter hfeed => exact feedBytes_keeps_framerInv hfeed inv
  all_goals exact ⟨inv.cursor, inv.progress, inv.start, inv.second, inv.code, inv.filled⟩

theorem bounded_builtCmd {payload : List Byte} (h : bounded s.cmd s.par.cmdCap) (hlo : 5 ≤ s.argL.toNat)
    (hhi : s.argL.toNat ≤ s.par.cmdCap) : bounded (builtCmd s payload) s.par.cmdCap :=
  bounded_write (bounded_writes h (by simp [frameHeader]; omega)) (by omega) _

theorem Effect.keeps_bufferInv (h : Effect s i t) (inv : BlockInv s) : BufferInv t := by
  obtain ⟨cmd, bak, fbuf, ret⟩ := inv.buffers
  have hcap := par_cmdCap_ge s
  cases h
  case built payload hlo hhi hpayload =>
    have built := bounded_builtCmd (payload := payload) cmd hlo hhi
    exact ⟨built, built, fbuf, ret⟩
  case payloadAcq => exact ⟨bounded_writes cmd (by simp [acqBytes]; omega), bak, fbuf, ret⟩
  case transmitted frame hbuilt hframe =>
    have hlength : s.lastL.toNat ≤ s.par.cmdCap :=
      inv.exchange.command.elim (fun h => absurd h hbuilt) And.right
    exact ⟨bounded_writes cmd (by simpa using hlength), bak, fbuf, ret⟩
  case restore => exact ⟨bak, bak, fbuf, ret⟩
  case synthStandby =>
    have hlength : (standbyFrame s.par s.argUc).length = s.par.rStandby := standbyFrame_length s.cfg s.argUc
    exact ⟨cmd, bak, fbuf, bounded_writes ret (by rw [hlength, Nat.zero_add]; exact par_rStandby_le s)⟩
  case drained fc uc n frame held =>
    have hlength := held.frame_length
    have := fwdLen_eq held.length
    exact ⟨bounded_writes cmd (by omega), bak, fbuf, ret⟩
  case commandWritten v i hloc hi => exact ⟨bounded_write cmd hi v, bak, fbuf, ret⟩
  case received b hroom => exact ⟨cmd, bak, fbuf, bounded_write ret hroom b⟩
  case fed bs hwriter hfeed =>
    have fed := feedBytes_keeps_bounded hfeed fbuf
    obtain ⟨_, _, _, _, rfl⟩ := feedBytes_onlyFramer hfeed
    exact ⟨cmd, bak, fed, ret⟩
  all_goals exact ⟨cmd, bak, fbuf, ret⟩

/-- Writes in `CMD` leave the bytes of the command written. -/
theorem commandWritten_writes (inv : ExchangeInv s) (a : Nat) (vs : List Byte) :
    ∀ i, i < s.lastL.toNat → written (Memory.writes s.cmd a vs) i ∧ written s.bak i :=
  fun i hi => ⟨written_writes_of_written (inv.commandWritten i hi).1 a vs, (inv.commandWritten i hi).2⟩

/-- `SILENT` withholds the packet (R152). -/
theorem accepted_retSize (s : State) : (accepted s).retSize = 0 ∨ (accepted s).retSize = s.argR := ite_eq_or_eq _ _ _

theorem Effect.keeps_exchangeInv (h : Effect s i t) (inv : ExchangeInv s) : ExchangeInv t := by
  have success : (0x00 : Byte) ∈ reportedKinds.map errorCode := errorCode_mem (e := .none) (by decide)
  cases h
  case csAdd | regRead | operandWritten | writeIgnored | dropped | readyEdge | otherEdge => exact { inv with }
  case fed bs hwriter hfeed =>
    obtain ⟨_, _, _, _, rfl⟩ := feedBytes_onlyFramer hfeed
    exact { inv with }
  case nop | rdyClr | fetchDue | noFetchDue | notDrained | csClr => exact { inv with verdict := success }
  case reservedOp => exact { inv with verdict := errorCode_mem (e := .illegalOp) (by decide) }
  case buildRejected | xmitRejected => exact { inv with verdict := errorCode_mem (e := .badLength) (by decide) }
  case init =>
    exact {
      async := fun h => absurd rfl h
      received := Nat.zero_le _
      receivedWritten := nofun
      packet := .inl rfl
      packetOk := fun h => absurd rfl h
      command := .inl rfl
      commandWritten := nofun
      verdict := success }
  case built payload hlo hhi hpayload =>
    have bytes (i : Nat) (hi : i < s.argL.toNat) : written (builtCmd s payload) i :=
      written_of_readRange (readRange_builtCmd hlo hpayload) hi
    exact { inv with
      async := (ite_eq_or_eq _ _ _).elim (fun h _ => h) fun h hne => absurd h hne
      command := .inr ⟨hlo, hhi⟩
      commandWritten := fun i hi => ⟨bytes i hi, bytes i hi⟩
      verdict := success }
  case payloadAcq => exact { inv with commandWritten := commandWritten_writes inv _ _, verdict := success }
  case transmitted frame hbuilt hframe =>
    exact { inv with
      received := Nat.zero_le _
      receivedWritten := nofun
      packet := .inl rfl
      packetOk := fun h => absurd rfl h
      commandWritten := commandWritten_writes inv _ _
      verdict := success }
  case validateFailed e failure =>
    exact { inv with
      packet := .inl rfl
      packetOk := fun h => absurd rfl h
      verdict := errorCode_mem failure.reported }
  case validated frame valid =>
    exact { inv with
      packet := (accepted_retSize s).imp id fun h => by rw [h]; exact ⟨valid.received.lo, valid.received.hi⟩
      packetOk := fun _ => rfl
      verdict := success }
  case restore =>
    exact { inv with
      commandWritten := fun i hi => ⟨(inv.commandWritten i hi).2, (inv.commandWritten i hi).2⟩
      verdict := success }
  case synthStandby =>
    have size := rStandby_toNat s
    exact { inv with
      receivedWritten := fun i hi => written_writes_of_written (inv.receivedWritten i hi) _ _
      packet := .inr ⟨(par_rStandby_ge s).trans_eq size.symm, size.trans_le (par_rStandby_le s)⟩
      packetOk := fun _ => rfl
      verdict := success }
  case retClr =>
    exact { inv with
      packet := .inl rfl
      packetOk := fun h => absurd rfl h
      verdict := success }
  case drained fc uc n frame held =>
    exact { inv with commandWritten := commandWritten_writes inv _ _, verdict := success }
  case commandWritten v i hloc hi => exact { inv with commandWritten := commandWritten_writes inv i [v] }
  case received b hroom =>
    have count := rxCnt_succ_toNat hroom
    exact { inv with
      received := count ▸ hroom
      receivedWritten := fun i (hi : i < (s.rxCnt + 1).toNat) => by
        rw [written, read_write]
        split_ifs with heq
        · rfl
        · exact inv.receivedWritten i (by omega) }

theorem Effect.keeps_blockInv (h : Effect s i t) (inv : BlockInv s) : BlockInv t :=
  ⟨h.keeps_bufferInv inv, h.keeps_framerInv inv.framer, h.keeps_exchangeInv inv.exchange⟩

theorem exec_keeps_blockInv (h : exec i s = .next t) (inv : BlockInv s) : BlockInv t :=
  (exec_effect h).keeps_blockInv inv

end

/-- The schedule has no part in the invariant. -/
theorem blockInv_withPending {s : State} (inv : BlockInv s) (ts : List Transaction) : BlockInv (s.withPending ts) where
  buffers := { inv.buffers with }
  framer := { inv.framer with }
  exchange := { inv.exchange with }

/-- Settles O59: a step runs one instruction or none. -/
theorem stepKeepsTheInvariant : Obligations.StepKeepsTheInvariant := by
  intro s t inv h
  obtain rfl | ⟨x, rest, i, -, -, hexec⟩ := step_next h
  · exact inv
  · exact exec_keeps_blockInv hexec (blockInv_withPending inv rest)

/-! Every instruction runs (R49, R240). -/

section
variable {s : State}

/-- A fed byte meets no unwritten byte: what the framer reads is what it has appended (R199). -/
theorem exec_fwdByte_runs (inv : FramerInv s) (b : Byte) : ∃ t, exec (.fwdByte b) s = .next t := by
  have ran {o : FwdOutcome} {cursor : Nat} : AppendsWithTag s b o cursor → ∃ t, exec (.fwdByte b) s = .next t :=
    Exists.imp fun _ => And.left
  by_cases hfilled : s.ffilled = true
  · exact ⟨_, exec_fwdByte_of_filled hfilled⟩
  have hfilled : s.ffilled = false := Bool.eq_false_iff.mpr hfilled
  obtain hzero | hone | htwo | hthree : s.fcur.toNat = 0 ∨ s.fcur.toNat = 1 ∨ s.fcur.toNat = 2 ∨ 3 ≤ s.fcur.toNat := by
    omega
  · by_cases hb : b = s.par.prefix0
    · exact ran (accepts_frame_start inv hfilled hzero hb)
    · exact ⟨_, exec_fwdByte_of_no_start hfilled ((fcur_eq_zero_iff s).mpr hzero) hb⟩
  · by_cases hb : b = s.par.prefix1
    · exact ran (accepts_second_prefix inv hfilled hone hb)
    · exact ran (resets_on_desync inv hfilled hone hb)
  · cases hn : fwdLen s.par b with
    | some n => exact ran (accepts_function_code inv hfilled htwo hn)
    | none => exact ran (resets_on_unrecognised_code inv hfilled htwo hn)
  · obtain ⟨fc, n, hfc, hn, hlt⟩ := inv.code hthree
    obtain hshort | hlast := Nat.lt_or_eq_of_le (Nat.succ_le_of_lt hlt)
    · exact ran (accepts_short_of_length inv hfilled hthree hfc hn hshort)
    · obtain ⟨body, hbody⟩ : ∃ body, Memory.readRange s.fbuf 0 s.fcur.toNat = .ok body :=
        readRange_of_written fun k hk => by rw [Nat.zero_add]; exact inv.progress k hk
      rw [exec_fwdByte_of_last inv hfilled hthree hfc hn hlast hbody]
      split_ifs <;> exact ⟨_, rfl⟩

theorem feedBytes_runs (bs : List Byte) : ∀ {s : State}, FramerInv s → ∃ t, feedBytes bs s = .next t := by
  induction bs with
  | nil => exact fun _ => ⟨_, rfl⟩
  | cons b bs ih =>
    intro s inv
    obtain ⟨t, ht⟩ := exec_fwdByte_runs inv b
    obtain ⟨u, hu⟩ := ih (framerByte_keeps_framerInv ht inv)
    exact ⟨u, by rw [feedBytes_cons, ht, afterNext_of_next, hu]⟩

theorem exec_build_runs (h : payloadWritten s) : ∃ t, exec .build s = .next t := by
  by_cases hbad : s.argL.toNat < 5 ∨ s.par.cmdCap < s.argL.toNat
  · exact ⟨_, exec_build_of_badLength hbad⟩
  obtain ⟨hlo, hhi⟩ : 5 ≤ s.argL.toNat ∧ s.argL.toNat ≤ s.par.cmdCap := by omega
  obtain ⟨payload, hpayload⟩ := readRange_of_written (m := s.cmd) (a := 4) (n := s.argL.toNat - 5)
    fun k hk => h hlo hhi (4 + k) (by omega) (by omega)
  exact ⟨_, exec_build_of_payload hlo hhi hpayload⟩

theorem exec_xmit_runs (h : ∀ i, i < s.lastL.toNat → written s.cmd i) : ∃ t, exec .xmit s = .next t := by
  by_cases hbuilt : s.lastL = 0
  · exact ⟨_, exec_xmit_of_nothing_built hbuilt⟩
  · obtain ⟨frame, hframe⟩ := readRange_of_written (m := s.cmd) (a := 0) fun k hk => by
      rw [Nat.zero_add]
      exact h k hk
    exact ⟨_, exec_xmit_of_frame hbuilt hframe⟩

theorem exec_validate_runs (h : ∀ i, i < s.rxCnt.toNat → written s.ret i) : ∃ t, exec .validate s = .next t := by
  by_cases hbad : s.argR.toNat < 5 ∨ s.par.retCap < s.argR.toNat
  · exact ⟨_, exec_validate_of_badLength hbad⟩
  obtain ⟨hlo, hhi⟩ : 5 ≤ s.argR.toNat ∧ s.argR.toNat ≤ s.par.retCap := by omega
  by_cases htimeout : s.rxCnt.toNat < s.argR.toNat
  · exact ⟨_, exec_validate_of_timeout hlo hhi htimeout⟩
  · obtain ⟨frame, hframe⟩ := readRange_of_written (m := s.ret) (a := 0) (n := s.argR.toNat) fun k hk => by
      rw [Nat.zero_add]
      exact h k (by omega)
    have received : Received s frame := ⟨hlo, hhi, Nat.not_lt.mp htimeout, hframe⟩
    rw [received.exec_validate]
    split_ifs <;> exact ⟨_, rfl⟩

theorem exec_fwdDrain_runs (inv : FramerInv s) : ∃ t, exec .fwdDrain s = .next t := by
  by_cases hfilled : s.ffilled = true
  · obtain ⟨fc, uc, n, frame, held⟩ := filledFrame_of_framerInv inv hfilled
    exact ⟨_, held.exec_fwdDrain⟩
  · exact ⟨_, exec_fwdDrain_of_not_filled (Bool.eq_false_iff.mpr hfilled)⟩

theorem exec_regRead_runs {off : Half} (h : windowWritten s (locate s.par off)) :
    ∃ t, exec (.regRead off) s = .next t := by
  obtain ⟨v, hv⟩ : ∃ v, readLocation s (locate s.par off) = .ok v := by
    cases hloc : locate s.par off with
    | reg r => exact ⟨_, rfl⟩
    | reserved => exact ⟨_, rfl⟩
    | cmd i =>
      obtain ⟨v, hv⟩ := Option.isSome_iff_exists.mp (hloc ▸ h : windowWritten s (.cmd i))
      exact ⟨v, by rw [readLocation_cmd, hv, Option.elim_some]⟩
    | fbuf i =>
      obtain ⟨v, hv⟩ := Option.isSome_iff_exists.mp (hloc ▸ h : windowWritten s (.fbuf i))
      exact ⟨v, by rw [readLocation_fbuf, hv, Option.elim_some]⟩
    | ret i =>
      obtain ⟨v, hv⟩ := Option.isSome_iff_exists.mp (hloc ▸ h : windowWritten s (.ret i))
      exact ⟨v, by rw [readLocation_ret, hv, Option.elim_some]⟩
  exact ⟨_, exec_regRead_of_value rfl hv⟩

/-- Every instruction but a plain write. -/
theorem exec_runs_of_not_regWrite {i : Instr} (inv : BlockInv s) (hi : ∀ off v, i ≠ .regWrite off v)
    (hreads : ReadsWritten s i) : ∃ t, exec i s = .next t := by
  by_cases hwriter : writerOf i = .fwdByte
  · obtain ⟨bs, hfeed⟩ := exec_eq_feedBytes hwriter s
    exact hfeed ▸ feedBytes_runs bs inv.framer
  cases i
  case regWrite off v => exact absurd rfl (hi off v)
  case build => exact exec_build_runs hreads
  case xmit => exact exec_xmit_runs fun i hi => (inv.exchange.commandWritten i hi).1
  case validate => exact exec_validate_runs inv.exchange.receivedWritten
  case fwdDrain => exact exec_fwdDrain_runs inv.framer
  case regRead => exact exec_regRead_runs hreads
  case rxByte b =>
    obtain hroom | hfull := Nat.lt_or_ge s.rxCnt.toNat s.par.retCap
    · exact ⟨_, exec_rxByte_of_room b hroom⟩
    · exact ⟨_, exec_rxByte_of_full b hfull⟩
  case nop | init | payloadAcq | restore | synthStandby | retClr | rdyClr | poll | csClr | reservedOp | csAdd |
      rdyEdge =>
    exact ⟨_, rfl⟩
  all_goals exact absurd rfl hwriter

/-- A plain write past the triggers stores a byte or ignores it. -/
theorem exec_regWrite_runs_of_plain {off : Half} (v : Byte) (hop : off ≠ 0x000) (hfwd : off ≠ 0x00D)
    (hcs : off ≠ 0x017) :
    ∃ t, exec (.regWrite off v) s = .next t := by
  cases hloc : locate s.par off with
  | reg r =>
    obtain rfl := regOffset_of_locate hloc
    exact ⟨_, exec_regWrite_register v (not_trigger_of_offset hop hfwd hcs)⟩
  | cmd i => exact ⟨_, exec_regWrite_cmd v hloc⟩
  | fbuf i => exact ⟨_, exec_regWrite_ignored v (.inl ⟨i, hloc⟩)⟩
  | ret i => exact ⟨_, exec_regWrite_ignored v (.inr (.inl ⟨i, hloc⟩))⟩
  | reserved => exact ⟨_, exec_regWrite_ignored v (.inr (.inr hloc))⟩

/-- No op code carries a host read. -/
theorem readsWritten_decodeOp {code : Byte} (h : code = 0x02 → payloadWritten s) : ReadsWritten s (decodeOp code) := by
  have code_eq {i : Instr} (hi : decodeOp code = i) : encode s.par i = opWrite code :=
    hi ▸ (decodeOp_roundTrip s.par code).2
  cases hi : decodeOp code with
  | build =>
    have := code_eq hi
    injection this with _ hcode
    exact h hcode.symm
  | regRead off => cases code_eq hi
  | regWrite off v => exact absurd hi (decodeOp_ne_regWrite code off v)
  | _ => trivial

/-- Settles O60: a plain write is the instruction that the decoder makes of it. -/
theorem everyInstructionRuns : Obligations.EveryInstructionRuns := by
  intro i s inv hreads
  cases i
  case regWrite off v =>
    rw [← exec_decodeWrite, decodeWrite]
    split_ifs with hop hfwd hcs
    · exact exec_runs_of_not_regWrite inv (decodeOp_ne_regWrite v) (readsWritten_decodeOp (hreads hop))
    · exact exec_runs_of_not_regWrite inv nofun trivial
    · exact exec_runs_of_not_regWrite inv nofun trivial
    · exact exec_regWrite_runs_of_plain v hop hfwd hcs
  all_goals exact exec_runs_of_not_regWrite inv nofun hreads

end

end Sys2Proof.Proofs
end

section
/-! The outcome of one fed byte (42_forward_framer.md R198). -/

namespace Sys2Proof.Proofs

open Sys2Proof.Machine Sys2Proof.Laws Sys2Proof.Safety

/-- The tags of an appended byte after which the framer holds no frame in progress. -/
def endTags : List FwdOutcome := [.resetDesync, .resetUnrecognized, .resetChecksum, .complete]

/-- What R198's table says of a step with the tag `o`. -/
structure LeavesTag (s : State) (b : Byte) (t : State) (o : FwdOutcome) : Prop where
  tag : t.history = s.history ++ [.fwd o]
  dropped : o ∈ dropTags → { t with history := s.history } = s
  appended : o ∉ dropTags →
    (∀ j, Memory.read t.fbuf j = if j = s.fcur.toNat then some b else Memory.read s.fbuf j) ∧
      { t with fbuf := s.fbuf, fcur := s.fcur, ffilled := s.ffilled, history := s.history } = s
  advanced : o = .accept → t.fcur.toNat = s.fcur.toNat + 1
  ended : o ∈ endTags → t.fcur = 0
  notFilled : o ≠ .complete → t.ffilled = s.ffilled
  filled : o = .complete ↔ s.ffilled = false ∧ t.ffilled = true

section
variable {s : State} {b : Byte}

theorem leavesTag_of_drop {o : FwdOutcome} (ho : o ∈ dropTags) : LeavesTag s b (s.emit (.fwd o)) o := by
  obtain ⟨not_accept, not_end, not_complete⟩ : o ≠ .accept ∧ o ∉ endTags ∧ o ≠ .complete := by
    revert ho
    cases o <;> decide
  exact {
    tag := rfl
    dropped := fun _ => rfl
    appended := fun h => absurd ho h
    advanced := fun h => absurd h not_accept
    ended := fun h => absurd h not_end
    notFilled := fun _ => rfl
    filled := ⟨fun h => absurd h not_complete, fun h => absurd h.2 (ne_true_of_eq_false h.1)⟩ }

theorem leavesTag_of_accept (count : (s.fcur + 1).toNat = s.fcur.toNat + 1) :
    LeavesTag s b ((appendByte b s).emit (.fwd .accept)) .accept where
  tag := rfl
  dropped := fun h => absurd h (by decide)
  appended := fun _ => ⟨read_appendByte b s, rfl⟩
  advanced := fun _ => count
  ended := fun h => absurd h (by decide)
  notFilled := fun _ => rfl
  filled := ⟨nofun, fun h => absurd h.2 (ne_true_of_eq_false h.1)⟩

theorem leavesTag_of_reset {o : FwdOutcome} (ho : o ∈ resetTags) :
    LeavesTag s b (resetFramer (appendByte b s) o) o := by
  obtain ⟨not_drop, not_accept, not_complete⟩ : o ∉ dropTags ∧ o ≠ .accept ∧ o ≠ .complete := by
    revert ho
    cases o <;> decide
  exact {
    tag := rfl
    dropped := fun h => absurd h not_drop
    appended := fun _ => ⟨read_appendByte b s, rfl⟩
    advanced := fun h => absurd h not_accept
    ended := fun _ => rfl
    notFilled := fun _ => rfl
    filled := ⟨fun h => absurd h not_complete, fun h => absurd h.2 (ne_true_of_eq_false h.1)⟩ }

theorem leavesTag_of_complete (hfilled : s.ffilled = false) :
    LeavesTag s b (fillFramer (appendByte b s)) .complete where
  tag := rfl
  dropped := fun h => absurd h (by decide)
  appended := fun _ => ⟨read_appendByte b s, rfl⟩
  advanced := nofun
  ended := fun _ => rfl
  notFilled := fun h => absurd rfl h
  filled := ⟨fun _ => ⟨hfilled, rfl⟩, fun _ => rfl⟩

/-- A cursor with room counts on without wrap-around, since `CMD_CAP` is at most 255 (R10(b)). -/
theorem fcur_succ_toNat (hroom : s.fcur.toNat < s.par.cmdCap) : (s.fcur + 1).toNat = s.fcur.toNat + 1 := by
  have := par_cmdCap_le s
  bv_omega

end

/-- Every answer of `FWD_BYTE` has its row in R198's table. -/
theorem exec_fwdByte_leavesTag {s t : State} {b : Byte} (h : exec (.fwdByte b) s = .next t) :
    ∃ o, LeavesTag s b t o := by
  obtain ⟨o, ho, rfl⟩ | ⟨hfilled, hroom, rfl | ⟨o, ho, rfl⟩ | rfl⟩ := framerByte_shape h
  · exact ⟨o, leavesTag_of_drop ho⟩
  · exact ⟨_, leavesTag_of_accept (fcur_succ_toNat hroom)⟩
  · exact ⟨o, leavesTag_of_reset ho⟩
  · exact ⟨_, leavesTag_of_complete hfilled⟩

/-- Settles O50. -/
theorem eachFwdByteHasOneOutcome : Obligations.EachFwdByteHasOneOutcome := by
  intro s t b h
  obtain ⟨o, row⟩ := exec_fwdByte_leavesTag h
  exact ⟨o, row.tag, row.dropped, row.appended, row.advanced, row.ended, row.notFilled, row.filled⟩

end Sys2Proof.Proofs
end

section
/-! Relayed frames (30_encoding.md R96, 42_forward_framer.md R190 to R196): what becomes of a frame's bytes, one after
the other. -/

namespace Sys2Proof.Proofs

open Sys2Proof.Machine Sys2Proof.Laws Sys2Proof.Safety

theorem feedBytes_append_eq (xs ys : List Byte) (s : State) :
    feedBytes (xs ++ ys) s = afterNext (feedBytes xs s) (feedBytes ys) := by
  rw [feedBytes_append]
  cases feedBytes xs s <;> rfl

/-! Bytes that are all dropped for one reason. -/

/-- `s` with `n` more events of one tag. -/
def withTags (s : State) (o : FwdOutcome) (n : Nat) : State :=
  { s with history := s.history ++ List.replicate n (.fwd o) }

theorem withTags_zero (s : State) (o : FwdOutcome) : withTags s o 0 = s := by simp [withTags]

theorem withTags_succ (s : State) (o : FwdOutcome) (n : Nat) :
    (withTags s o n).emit (.fwd o) = withTags s o (n + 1) := by
  simp [withTags, State.emit, List.replicate_succ']

/-- Bytes that leave nothing but one tag each, whatever tags there are already. -/
theorem feedBytes_of_dropped {s : State} {o : FwdOutcome} {bs : List Byte}
    (h : ∀ b ∈ bs, ∀ n, exec (.fwdByte b) (withTags s o n) = .next ((withTags s o n).emit (.fwd o))) :
    feedBytes bs s = .next (withTags s o bs.length) := by
  have from_any (k : Nat) : feedBytes bs (withTags s o k) = .next (withTags s o (k + bs.length)) := by
    induction bs generalizing k with
    | nil => rfl
    | cons b bs ih =>
      rw [feedBytes_cons, h b List.mem_cons_self, afterNext_of_next, withTags_succ,
        ih (fun b hb => h b (List.mem_cons_of_mem _ hb)), List.length_cons, Nat.add_right_comm, Nat.add_assoc]
  have from_zero := from_any 0
  rwa [withTags_zero, Nat.zero_add] at from_zero

theorem feedBytes_of_filled {s : State} (h : s.ffilled = true) (bs : List Byte) :
    feedBytes bs s = .next (withTags s .dropBackpressure bs.length) :=
  feedBytes_of_dropped fun _ _ _ => exec_fwdByte_of_filled h

theorem feedBytes_of_no_start {s : State} (h : idleFramer s) {bs : List Byte} (hbs : ∀ b ∈ bs, b ≠ s.par.prefix0) :
    feedBytes bs s = .next (withTags s .dropIdle bs.length) :=
  feedBytes_of_dropped fun b hb _ => exec_fwdByte_of_no_start h.1 h.2 (hbs b hb)

theorem frameParts_of_dispatch {i : Instr} {parts : FunctionCode × Byte × List Byte}
    (h : dispatchFrame i = some parts) : frameParts i = some parts := by
  rw [frameParts, h]
  rfl

theorem frameParts_of_unrecognised {i : Instr} {parts : FunctionCode × Byte × List Byte}
    (h : unrecognisedFrame i = some parts) : frameParts i = some parts := by
  cases i <;> cases h <;> rfl

/-- Settles O55. -/
theorem framesRelayedWhileFilledAreLost : Obligations.FramesRelayedWhileFilledAreLost := by
  intro s i f uc payload hfilled hrow
  have hparts : frameParts i = some (f, uc, payload) := hrow.elim frameParts_of_dispatch frameParts_of_unrecognised
  rw [exec_of_frameParts hparts, feedBytes_of_filled hfilled, commandFrame_length]
  rfl

/-! A frame in progress. -/

/-- An empty framer after it has accepted some bytes of a frame. -/
def midFrame (s : State) (body : List Byte) : State :=
  { s with
    fbuf := Memory.writes s.fbuf 0 body
    fcur := BitVec.ofNat 8 body.length
    history := s.history ++ List.replicate body.length (.fwd .accept) }

theorem writes_append_singleton (m : Memory) (a : Nat) (vs : List Byte) (v : Byte) :
    Memory.writes m a (vs ++ [v]) = Memory.write (Memory.writes m a vs) (a + vs.length) v := by
  induction vs generalizing m a with
  | nil => rfl
  | cons w vs ih => rw [List.cons_append, Memory.writes, ih, List.length_cons, Nat.add_right_comm, Nat.add_assoc]; rfl

section
variable {s : State} {body : List Byte}

theorem midFrame_nil (h : idleFramer s) : midFrame s [] = s := by
  have zero : 0#8 = s.fcur := h.2.symm
  simp [midFrame, Memory.writes, zero]

theorem midFrame_fcur_toNat (h : body.length ≤ 9) : (midFrame s body).fcur.toNat = body.length := by
  rw [midFrame, BitVec.toNat_ofNat, Nat.mod_eq_of_lt (by omega)]

theorem appendByte_midFrame_fbuf (h : body.length ≤ 9) (b : Byte) :
    (appendByte b (midFrame s body)).fbuf = Memory.writes s.fbuf 0 (body ++ [b]) := by
  rw [writes_append_singleton, Nat.zero_add, ← midFrame_fcur_toNat h]
  rfl

/-- What the checks read is the frame with the byte appended. -/
theorem read_appendByte_midFrame (h : body.length ≤ 9) (b : Byte) {j : Nat} (hj : j < body.length + 1) :
    Memory.read (appendByte b (midFrame s body)).fbuf j = (body ++ [b])[j]? := by
  rw [appendByte_midFrame_fbuf h, read_writes, if_pos ⟨Nat.zero_le j, by simpa using hj⟩, Nat.sub_zero]

theorem accepted_midFrame (h : body.length ≤ 9) (b : Byte) :
    (appendByte b (midFrame s body)).emit (.fwd .accept) = midFrame s (body ++ [b]) := by
  have fbuf := appendByte_midFrame_fbuf (s := s) h b
  simp only [State.emit, appendByte, midFrame] at fbuf ⊢
  rw [fbuf]
  simp [List.replicate_succ', BitVec.ofNat_add]

theorem appendByte_midFrame_fcur (h : body.length ≤ 9) (b : Byte) :
    (appendByte b (midFrame s body)).fcur.toNat = body.length + 1 := by
  rw [appendByte_fcur_toNat b (by rw [midFrame_fcur_toNat h]; exact h), midFrame_fcur_toNat h]

/-- A byte behind the frame start goes to the checks. -/
theorem exec_fwdByte_midFrame (hidle : idleFramer s) (hlo : 1 ≤ body.length) (hhi : body.length ≤ 9) (b : Byte) :
    exec (.fwdByte b) (midFrame s body) = checkFrame (appendByte b (midFrame s body)) := by
  have cursor := midFrame_fcur_toNat (s := s) hhi
  have hcap := par_cmdCap_ge s
  refine exec_fwdByte_of_progress hidle.1 (fun h => ?_) ?_
  · have := (fcur_eq_zero_iff _).mp h
    omega
  · rw [cursor]
    change _ < s.par.cmdCap
    omega

end

/-! The bytes of a frame, fed to an empty framer. `frame` stands for a header and what follows it. -/

section
variable {s : State} {fc : Byte} {rest : List Byte}

/-- `PREFIX0` starts a frame. -/
theorem feed_start (hidle : idleFramer s) :
    exec (.fwdByte s.par.prefix0) s = .next (midFrame s [s.par.prefix0]) := by
  have accepted := accepted_midFrame (s := s) (body := []) (Nat.zero_le 9) s.par.prefix0
  rw [midFrame_nil hidle] at accepted
  rw [exec_fwdByte_of_start hidle.1 hidle.2 rfl, accepted]
  rfl

/-- `PREFIX1` behind the frame start is accepted. -/
theorem feed_prefixes (hidle : idleFramer s) :
    feedBytes [s.par.prefix0, s.par.prefix1] s = .next (midFrame s [s.par.prefix0, s.par.prefix1]) := by
  have second : exec (.fwdByte s.par.prefix1) (midFrame s [s.par.prefix0]) =
      .next (midFrame s [s.par.prefix0, s.par.prefix1]) := by
    rw [exec_fwdByte_midFrame hidle (by simp) (by simp),
      checkFrame_of_prefix (read_appendByte_midFrame (by simp) _ (by simp))
        (by rw [appendByte_midFrame_fcur (by simp)]; simp), accepted_midFrame (by simp)]
    rfl
  rw [feedBytes_cons, feed_start hidle, afterNext_of_next, feedBytes_singleton, second]

/-- From the code on, what becomes of a byte depends on the code's length. -/
theorem exec_fwdByte_behind_prefixes (hidle : idleFramer s) {body : List Byte} {b : Byte} (hhi : body.length ≤ 7)
    (hcode : (body ++ [b])[0]? = some fc) :
    exec (.fwdByte b) (midFrame s (s.par.prefix0 :: s.par.prefix1 :: body)) =
      checkLength (appendByte b (midFrame s (s.par.prefix0 :: s.par.prefix1 :: body))) (fwdLen s.par fc) := by
  have hlength : (s.par.prefix0 :: s.par.prefix1 :: body).length ≤ 9 := by
    simp only [List.length_cons]
    omega
  rw [exec_fwdByte_midFrame hidle (by simp) hlength,
    checkFrame_of_code (read_appendByte_midFrame hlength b (by simp))
      (by rw [appendByte_midFrame_fcur hlength]; simp) ((read_appendByte_midFrame hlength b (by simp)).trans hcode)]
  rfl

/-- The bytes of a recognised frame but the last are accepted, the code first. -/
theorem feed_body (hidle : idleFramer s) {n : Nat} (hn : fwdLen s.par fc = some n) (bs : List Byte) :
    ∀ body, (body ++ bs)[0]? = some fc → body.length + bs.length + 2 < n →
      feedBytes bs (midFrame s (s.par.prefix0 :: s.par.prefix1 :: body)) =
        .next (midFrame s (s.par.prefix0 :: s.par.prefix1 :: body ++ bs)) := by
  have hten := fwdLen_eq hn
  induction bs with
  | nil =>
    intro body _ _
    rw [List.append_nil]
    rfl
  | cons b bs ih =>
    intro body hcode hlength
    rw [List.length_cons] at hlength
    rw [List.append_cons] at hcode
    have code : (body ++ [b])[0]? = some fc := by
      rwa [List.getElem?_append_left (by simp)] at hcode
    have cursor : (s.par.prefix0 :: s.par.prefix1 :: body).length ≤ 9 := by
      simp only [List.length_cons]
      omega
    have short : (appendByte b (midFrame s (s.par.prefix0 :: s.par.prefix1 :: body))).fcur.toNat ≠ n := by
      rw [appendByte_midFrame_fcur cursor]
      simp only [List.length_cons]
      omega
    rw [feedBytes_cons, exec_fwdByte_behind_prefixes hidle (by omega) code, hn, checkLength_of_short short,
      accepted_midFrame cursor, afterNext_of_next, List.cons_append, List.cons_append,
      ih (body ++ [b]) hcode (by simp; omega)]
    simp

/-- An empty framer after a whole valid frame (R196). -/
def heldFrame (s : State) (frame : List Byte) : State :=
  { s with
    fbuf := Memory.writes s.fbuf 0 frame
    fcur := 0
    ffilled := true
    history := s.history ++ List.replicate (frame.length - 1) (.fwd .accept) ++ [.fwd .complete] }

/-- The last byte of a recognised frame completes it. -/
theorem feed_last (hidle : idleFramer s) {body : List Byte} {b : Byte} (hcode : body[0]? = some fc)
    (hn : fwdLen s.par fc = some (body.length + 3))
    (hvalid : valid8 (s.par.prefix0 :: s.par.prefix1 :: body ++ [b]) = true) :
    exec (.fwdByte b) (midFrame s (s.par.prefix0 :: s.par.prefix1 :: body)) =
      .next (heldFrame s (s.par.prefix0 :: s.par.prefix1 :: body ++ [b])) := by
  have hten := fwdLen_eq hn
  have cursor : (s.par.prefix0 :: s.par.prefix1 :: body).length ≤ 9 := by
    simp only [List.length_cons]
    omega
  have bytes : Memory.readRange (appendByte b (midFrame s (s.par.prefix0 :: s.par.prefix1 :: body))).fbuf 0
      (body.length + 3) = .ok (s.par.prefix0 :: s.par.prefix1 :: body ++ [b]) := by
    rw [appendByte_midFrame_fbuf cursor]
    exact readRange_writes_of_length _ _ (by simp)
  have code : (body ++ [b])[0]? = some fc := by
    rwa [List.getElem?_append_left (by omega)]
  rw [exec_fwdByte_behind_prefixes hidle (by omega) code, hn,
    checkLength_of_complete (n := body.length + 3) (appendByte_midFrame_fcur cursor b) bytes,
    if_pos ((valid8_iff _).mp hvalid)]
  simp only [fillFramer, heldFrame, State.emit, appendByte_midFrame_fbuf cursor]
  simp [appendByte, midFrame]

/-- A frame of a recognised code and of its length is held. -/
theorem feed_commandFrame (hidle : idleFramer s) (uc : Byte) {payload : List Byte}
    (hn : fwdLen s.par fc = some (payload.length + 5)) :
    feedBytes (commandFrame s.par fc uc payload) s = .next (heldFrame s (commandFrame s.par fc uc payload)) := by
  have hvalid := valid8_commandFrame s.par fc uc payload
  rw [commandFrame_eq] at hvalid ⊢
  generalize checksum8 (frameHeader s.par fc uc ++ payload) = chk at hvalid ⊢
  have body := feed_body hidle hn (fc :: uc :: payload) [] rfl (by simp)
  have last := feed_last hidle (body := fc :: uc :: payload) (b := chk) rfl hn hvalid
  have split : s.par.prefix0 :: s.par.prefix1 :: fc :: uc :: (payload ++ [chk]) =
      [s.par.prefix0, s.par.prefix1] ++ ((fc :: uc :: payload) ++ [chk]) := rfl
  rw [split, feedBytes_append_eq, feed_prefixes hidle, afterNext_of_next, feedBytes_append_eq, body,
    afterNext_of_next, feedBytes_singleton]
  exact last

/-- An empty framer after the three bytes up to a code that it does not recognise. -/
def rejectedCode (s : State) (fc : Byte) : State :=
  { s with
    fbuf := Memory.writes s.fbuf 0 [s.par.prefix0, s.par.prefix1, fc]
    history := s.history ++ [.fwd .accept, .fwd .accept, .fwd .resetUnrecognized] }

/-- A code without a length empties the framer at the third byte (R195). -/
theorem feed_unrecognised_code (hidle : idleFramer s) (hnone : fwdLen s.par fc = none) :
    feedBytes [s.par.prefix0, s.par.prefix1, fc] s = .next (rejectedCode s fc) := by
  have split : [s.par.prefix0, s.par.prefix1, fc] = [s.par.prefix0, s.par.prefix1] ++ [fc] := rfl
  have emptied : resetFramer (appendByte fc (midFrame s [s.par.prefix0, s.par.prefix1])) .resetUnrecognized =
      rejectedCode s fc := by
    have fbuf := appendByte_midFrame_fbuf (s := s) (body := [s.par.prefix0, s.par.prefix1]) (by simp) fc
    simp only [resetFramer, State.emit, fbuf, rejectedCode, ← hidle.2]
    simp [appendByte, midFrame]
  rw [split, feedBytes_append_eq, feed_prefixes hidle, afterNext_of_next, feedBytes_singleton,
    exec_fwdByte_behind_prefixes (fc := fc) hidle (by simp) rfl, hnone, ← emptied]
  rfl

end

/-! The rows by what the framer makes of them (R190). -/

/-- The length that the framer looks up for a dispatch command is its frame's. -/
theorem fwdLen_of_dispatch (c : LegalParams) {i : Instr} {f : FunctionCode} {uc : Byte} {payload : List Byte}
    (h : dispatchFrame i = some (f, uc, payload)) :
    fwdLen c.params (codeValue c.params f) = some (payload.length + 5) := by
  cases i <;> cases h
  case frameAcqSpectrum.refl | frameAcqXyz.refl =>
    exact (fwdLen_eq_ten_iff c _).mpr (by simp [acquisitionCodes, codeValue])
  all_goals exact (fwdLen_eq_five_iff _ _).mpr (by simp [shortCodes, codeValue])

theorem fwdLen_of_unrecognisedFrame (c : LegalParams) {i : Instr} {parts : FunctionCode × Byte × List Byte}
    (h : unrecognisedFrame i = some parts) : fwdLen c.params (codeValue c.params parts.1) = none := by
  cases i <;> cases h <;> exact fwdLen_of_unrecognised (by simp [unrecognisedCodes, codeValue])

section
variable {s : State} {i : Instr} {f : FunctionCode} {uc : Byte} {payload : List Byte}

/-- The frame of a dispatch command. -/
abbrev rowFrame (s : State) (f : FunctionCode) (uc : Byte) (payload : List Byte) : List Byte :=
  commandFrame s.par (codeValue s.par f) uc payload

theorem exec_dispatchFrame (hidle : idleFramer s) (hrow : dispatchFrame i = some (f, uc, payload)) :
    exec i s = .next (heldFrame s (rowFrame s f uc payload)) := by
  rw [exec_of_frameParts (frameParts_of_dispatch hrow)]
  exact feed_commandFrame hidle uc (fwdLen_of_dispatch s.cfg hrow)

theorem readRange_heldFrame (s : State) {frame : List Byte} {n : Nat} (h : frame.length = n) :
    Memory.readRange (heldFrame s frame).fbuf 0 n = .ok frame :=
  readRange_writes_of_length _ _ h

end

/-- Settles O53. -/
theorem dispatchFramesAreRecognised : Obligations.DispatchFramesAreRecognised := by
  intro s i f uc payload hidle hrow
  have hlength : (rowFrame s f uc payload).length = payload.length + 5 := commandFrame_length ..
  refine ⟨_, exec_dispatchFrame hidle hrow, rfl, rfl, readRange_heldFrame s hlength, fun j hj => ?beyond, ?tags, rfl⟩
  case beyond => exact read_writes_outside _ (.inr (by omega))
  case tags => rw [heldFrame, hlength]; rfl

/-- Settles O54: three bytes up to the code, then bytes that start no frame. -/
theorem otherFramesAreDiscarded : Obligations.OtherFramesAreDiscarded := by
  intro s i f uc payload hidle hrow hrest
  have hnone : fwdLen s.par (codeValue s.par f) = none := fwdLen_of_unrecognisedFrame s.cfg hrow
  have code := feed_unrecognised_code hidle hnone
  have later := feedBytes_of_no_start (s := rejectedCode s (codeValue s.par f)) hidle hrest
  have split : rowFrame s f uc payload = [s.par.prefix0, s.par.prefix1, codeValue s.par f] ++ (uc :: payload ++
    [checksum8 ([s.par.prefix0, s.par.prefix1, codeValue s.par f, uc] ++ payload)]) := rfl
  have run : exec i s = .next (withTags (rejectedCode s (codeValue s.par f)) .dropIdle (payload.length + 2)) := by
    rw [exec_of_frameParts (frameParts_of_unrecognised hrow)]
    change feedBytes (rowFrame s f uc payload) s = _
    rw [split, feedBytes_append_eq, code, afterNext_of_next, later]
    simp
  exact ⟨_, run, rfl, readRange_writes_of_length _ _ rfl, fun j hj => read_writes_outside _ (.inr hj), rfl⟩

/-! What a run leaves in the history. -/

theorem fwdOutcomes_append (es es' : List Event) : fwdOutcomes (es ++ es') = fwdOutcomes es ++ fwdOutcomes es' := by
  induction es with
  | nil => rfl
  | cons e es ih => cases e <;> simp [fwdOutcomes, ih]

theorem fwdOutcomes_map_fwd (os : List FwdOutcome) : fwdOutcomes (os.map .fwd) = os := by
  induction os with
  | nil => rfl
  | cons o os ih => rw [List.map_cons, fwdOutcomes, ih]

theorem txEvents_append (es es' : List Event) : txEvents (es ++ es') = txEvents es ++ txEvents es' := by
  induction es with
  | nil => rfl
  | cons e es ih => cases e <;> simp [txEvents, ih]

/-- Outcome tags are no transmit events. -/
theorem txEvents_map_fwd (os : List FwdOutcome) : txEvents (os.map .fwd) = [] := by
  induction os with
  | nil => rfl
  | cons o os ih => rw [List.map_cons, txEvents, ih]

theorem fwdOutcomes_replicate (n : Nat) (o : FwdOutcome) :
    fwdOutcomes (List.replicate n (.fwd o)) = List.replicate n o := by
  rw [← List.map_replicate, fwdOutcomes_map_fwd]

theorem txEvents_replicate_fwd (n : Nat) (o : FwdOutcome) : txEvents (List.replicate n (.fwd o)) = [] := by
  rw [← List.map_replicate, txEvents_map_fwd]

theorem fwdOutcomes_heldFrame (s : State) (frame : List Byte) :
    fwdOutcomes (heldFrame s frame).history =
      fwdOutcomes s.history ++ List.replicate (frame.length - 1) .accept ++ [.complete] := by
  rw [heldFrame, fwdOutcomes_append, fwdOutcomes_append, fwdOutcomes_replicate]
  rfl

theorem txEvents_heldFrame (s : State) (frame : List Byte) :
    txEvents (heldFrame s frame).history = txEvents s.history := by
  rw [heldFrame, txEvents_append, txEvents_append, txEvents_replicate_fwd, List.append_nil]
  exact List.append_nil _

/-! Resynchronisation (R202). -/

/-- An empty framer after a frame start that another byte than `PREFIX1` follows. -/
def desynced (s : State) (x : Byte) : State :=
  resetFramer (appendByte x (midFrame s [s.par.prefix0])) .resetDesync

theorem feed_desync {s : State} {x : Byte} (hidle : idleFramer s) (hx : x ≠ s.par.prefix1) :
    exec (.fwdByte x) (midFrame s [s.par.prefix0]) = .next (desynced s x) := by
  rw [exec_fwdByte_midFrame hidle (by simp) (by simp)]
  exact checkFrame_of_desync (read_appendByte_midFrame (by simp) x (by simp)) hx

theorem desynced_idle {s : State} (hidle : idleFramer s) (x : Byte) : idleFramer (desynced s x) := ⟨hidle.1, rfl⟩

theorem fwdOutcomes_desynced (s : State) (x : Byte) :
    fwdOutcomes (desynced s x).history = fwdOutcomes s.history ++ [.accept, .resetDesync] := by
  rw [desynced, resetFramer_history]
  change fwdOutcomes ((s.history ++ [.fwd .accept]) ++ [.fwd .resetDesync]) = _
  rw [List.append_assoc, fwdOutcomes_append]
  rfl

/-- Settles O56: the desynchronised framer is empty, and relaying the frame starts from there. -/
theorem framerResynchronises : Obligations.FramerResynchronises := by
  intro s i f uc x payload hidle hx hrow
  have hlength : (rowFrame s f uc payload).length = payload.length + 5 := commandFrame_length ..
  have relayed : exec i (desynced s x) = .next (heldFrame (desynced s x) (rowFrame s f uc payload)) :=
    exec_dispatchFrame (desynced_idle hidle x) hrow
  refine ⟨_, ?run, rfl, ?tags, readRange_heldFrame (desynced s x) hlength⟩
  case run => simp only [execAll, feed_start hidle, feed_desync hidle hx, relayed]
  case tags =>
    rw [fwdOutcomes_heldFrame, fwdOutcomes_desynced, hlength]
    rfl

/-! A relayed frame on its way to the transport (R142, R200). -/

section
variable {s : State} {f : FunctionCode} {uc : Byte} {payload : List Byte}

/-- What `FWD_DRAIN` reads of a relayed frame. -/
theorem filledFrame_heldFrame (hn : fwdLen s.par (codeValue s.par f) = some (payload.length + 5)) :
    FilledFrame (heldFrame s (rowFrame s f uc payload)) (codeValue s.par f) uc (payload.length + 5)
      (rowFrame s f uc payload) := by
  have bytes := readRange_heldFrame s (commandFrame_length s.par (codeValue s.par f) uc payload)
  have header := readRange_take bytes (k := 4) (by omega)
  obtain ⟨-, -, code, user⟩ := (readRange_four_iff _ _ _ _ _).mp header
  exact ⟨rfl, code, user, hn, bytes⟩

/-- The state after the relayed frame has been drained. -/
def handedOver (s : State) (f : FunctionCode) (uc : Byte) (payload : List Byte) : State :=
  drainedFrame (heldFrame s (rowFrame s f uc payload)) (codeValue s.par f) uc (payload.length + 5)
    (rowFrame s f uc payload)

/-- Building the drained frame leaves it as it is, so that `XMIT` sends it. -/
theorem build_xmit_handedOver (hn : fwdLen s.par (codeValue s.par f) = some (payload.length + 5)) :
    ∃ built t, exec .build (handedOver s f uc payload) = .next built ∧ exec .xmit built = .next t ∧ t.err = 0x00 ∧
      t.history = (handedOver s f uc payload).history ++ [.tx (rowFrame s f uc payload)] := by
  have held := filledFrame_heldFrame (uc := uc) hn
  have hten := fwdLen_eq hn
  have hcap := par_cmdCap_ge s
  have len : (handedOver s f uc payload).argL.toNat = payload.length + 5 := held.length_toNat
  have bytes : Memory.readRange (handedOver s f uc payload).cmd 0 (handedOver s f uc payload).argL.toNat =
      .ok (rowFrame s f uc payload) := by
    rw [len]
    exact readRange_writes_of_length _ _ held.frame_length
  have lo : 5 ≤ (handedOver s f uc payload).argL.toNat := by omega
  have hi : (handedOver s f uc payload).argL.toNat ≤ (handedOver s f uc payload).par.cmdCap := by
    change _ ≤ s.par.cmdCap
    omega
  obtain ⟨body, -⟩ := read_builtCmd_of_valid
    (rest := payload ++ [checksum8 (frameHeader s.par (codeValue s.par f) uc ++ payload)]) lo bytes
    (valid8_commandFrame _ _ _ _)
  rw [List.dropLast_concat] at body
  have sent := exec_xmit_of_frame (s := (trackCommand _ (builtCmd _ payload)).report .none)
    (fun h => by
      have : (handedOver s f uc payload).argL = 0 := h
      rw [this] at lo
      exact absurd lo (by decide))
    (readRange_builtCmd lo body)
  exact ⟨_, _, exec_build_of_payload lo hi body, sent, rfl, rfl⟩

end

/-- Settles O57. -/
theorem relayedFrameIsTransmittedUnchanged : Obligations.RelayedFrameIsTransmittedUnchanged := by
  intro s i f uc payload hidle hrow
  have hn : fwdLen s.par (codeValue s.par f) = some (payload.length + 5) := fwdLen_of_dispatch s.cfg hrow
  have drain : exec .fwdDrain (heldFrame s (rowFrame s f uc payload)) = .next (handedOver s f uc payload) :=
    (filledFrame_heldFrame hn).exec_fwdDrain
  obtain ⟨built, t, hbuild, hxmit, herr, hhistory⟩ := build_xmit_handedOver (uc := uc) hn
  refine ⟨t, ?run, herr, ?sent⟩
  case run => simp only [execAll, exec_dispatchFrame hidle hrow, drain, hbuild, hxmit]
  case sent =>
    rw [hhistory, txEvents_append]
    exact congrArg (· ++ _) (txEvents_heldFrame s _)

end Sys2Proof.Proofs
end

section
/-! The asynchronous life cycle of an acquisition (41_packet_builder.md R161). -/

namespace Sys2Proof.Proofs

open Sys2Proof.Machine Sys2Proof.Laws

/-- An acquisition's code has a fetch code, its own. -/
theorem fetchCode_of_acquisition {c : LegalParams} {fc : Byte}
    (h : fc = c.params.fcAcqSpectrum ∨ fc = c.params.fcAcqXyz) :
    ∃ fetch, fetchCode c.params fc = some fetch ∧ (fc = c.params.fcAcqSpectrum → fetch = c.params.fcGetSpectrum) ∧
      (fc = c.params.fcAcqXyz → fetch = c.params.fcGetXyz) := by
  have distinct := (acquisition_codes_distinct c).1
  obtain rfl | rfl := h
  · exact ⟨_, fetchCode_acqSpectrum _, fun _ => rfl, fun h => absurd h.symm distinct⟩
  · exact ⟨_, fetchCode_acqXyz c, fun h => absurd h distinct, fun _ => rfl⟩

/-- A ready edge and a poll load the fetch of the tracked code. -/
theorem execAll_edge_poll {s : State} {e : LineEdge} {fetch : Byte} (hedge : activeEdge s.par.rdyEdge e = true)
    (hfetch : fetchCode s.par s.asyncFc = some fetch) :
    execAll [.rdyEdge e, .poll] s = .next { s with
      rdyFlag := true
      argFc := fetch
      argUc := s.lastUc
      argFlags := 0
      fetchDue := true
      err := 0x00 } := by
  have due : dueFetch { s with rdyFlag := true } = some fetch := dueFetch_of_fetch rfl hfetch
  simp only [execAll, exec_rdyEdge_of_active hedge, exec_poll, due]
  rfl

/-- Settles O39: `BUILD` tracks the acquisition, the edge and the tracked code make its fetch due, and the fetch, built
without `WAIT`, leaves nothing to fetch. -/
theorem asyncLifecycleFetchesOnce : Obligations.AsyncLifecycleFetchesOnce := by
  intro s s1 s4 e len hacq hwait hbuild herr hedge
  obtain ⟨payload, -, -, -, rfl⟩ := built_of_no_error hbuild herr
  obtain ⟨fetch, hfetch, hspectrum, hxyz⟩ := fetchCode_of_acquisition (c := s.cfg) hacq
  have tracked : fetchCode s.par (trackCommand s (builtCmd s payload)).asyncFc = some fetch :=
    (congrArg (fetchCode s.par) (if_pos hwait)).trans hfetch
  refine ⟨_, execAll_edge_poll hedge tracked, rfl, rfl, hspectrum, hxyz, fun hfetchBuild hfetchErr => ?_⟩
  obtain ⟨fetchPayload, -, -, -, rfl⟩ := built_of_no_error hfetchBuild hfetchErr
  have notTracked := flags_of_argFlags_zero (s := { s with argFlags := 0 }) rfl
  refine ⟨if_neg (ne_true_of_eq_false notTracked.1), rfl, rfl, rfl, _, exec_poll _, ?_⟩
  rw [dueFetch_of_no_fetch (.inl rfl)]
  rfl

end Sys2Proof.Proofs
end

section
/-! The attempts of one command (41_packet_builder.md R163): what the steps around them keep, and what each
transmits. -/

namespace Sys2Proof.Proofs

open Sys2Proof.Machine Sys2Proof.Laws Sys2Proof.Safety

theorem execAll_cons (i : Instr) (is : List Instr) (s : State) :
    execAll (i :: is) s = afterNext (exec i s) (execAll is) := by
  rw [execAll]
  cases exec i s <;> rfl

theorem execAll_append_eq (is js : List Instr) (s : State) :
    execAll (is ++ js) s = afterNext (execAll is s) (execAll js) := by
  rw [execAll_append]
  cases execAll is s <;> rfl

/-! A step that R163 admits. -/

/-- The built command stays: its backup, its length, the transmit history, and `CMD` where it is the backup. -/
structure Kept (s t : State) : Prop where
  cfg : t.cfg = s.cfg
  bak : t.bak = s.bak
  lastL : t.lastL = s.lastL
  tx : txEvents t.history = txEvents s.history
  live : s.cmd = s.bak → t.cmd = t.bak

theorem Kept.refl (s : State) : Kept s s := ⟨rfl, rfl, rfl, rfl, id⟩

theorem Kept.trans {s t u : State} (hst : Kept s t) (htu : Kept t u) : Kept s u :=
  ⟨htu.cfg.trans hst.cfg, htu.bak.trans hst.bak, htu.lastL.trans hst.lastL, htu.tx.trans hst.tx, htu.live ∘ hst.live⟩

theorem Kept.par {s t : State} (h : Kept s t) : t.par = s.par := congrArg LegalParams.params h.cfg

/-- The effects that R163 admits: none writes `BAK` or `LAST_L` or transmits, and only `RESTORE` writes `CMD`. -/
theorem Effect.kept {i : Instr} {s t : State} (h : Effect s i t) (hbetween : betweenAttempts s.par i = true) :
    Kept s t := by
  cases h
  case init | buildRejected | built | payloadAcq | xmitRejected | transmitted | notDrained | drained => cases hbetween
  case commandWritten v i hloc hi => simp [betweenAttempts, hloc] at hbetween
  case restore => exact ⟨rfl, rfl, rfl, rfl, fun _ => rfl⟩
  case regRead off v =>
    refine ⟨rfl, rfl, rfl, ?_, id⟩
    rw [emit_history, txEvents_append]
    exact List.append_nil _
  case fed bs hwriter hfeed =>
    obtain ⟨_, _, _, os, rfl⟩ := feedBytes_onlyFramer hfeed
    exact ⟨rfl, rfl, rfl, by rw [txEvents_append, txEvents_map_fwd, List.append_nil], id⟩
  all_goals exact ⟨rfl, rfl, rfl, rfl, id⟩

/-- A plain write that R163 admits carries an instruction that R163 admits. -/
theorem betweenAttempts_carried {p : Params} {i : Instr} (h : betweenAttempts p i = true) :
    betweenAttempts p (carried i) = true := by
  cases i
  case regWrite off v =>
    change betweenAttempts p (decodeWrite off v) = true
    unfold decodeWrite
    split_ifs with hop hfwd hcs
    · rw [hop] at h
      cases h
    · rfl
    · rfl
    · exact h
  all_goals exact h

theorem exec_kept {i : Instr} {s t : State} (h : exec i s = .next t) (hbetween : betweenAttempts s.par i = true) :
    Kept s t :=
  (exec_effect h).kept (betweenAttempts_carried hbetween)

theorem execAll_kept {is : List Instr} {s t : State} (h : execAll is s = .next t)
    (hbetween : ∀ i ∈ is, betweenAttempts s.par i = true) : Kept s t := by
  induction is generalizing s with
  | nil => cases h; exact Kept.refl _
  | cons i is ih =>
    rw [execAll_cons] at h
    obtain ⟨u, hi, his⟩ := afterNext_next h
    have first := exec_kept hi (hbetween i List.mem_cons_self)
    exact first.trans (ih his fun j hj => first.par ▸ hbetween j (List.mem_cons_of_mem i hj))

/-! The attempts. -/

/-- A command is built, and its backup holds the frame. -/
structure Loaded (s : State) (frame : List Byte) : Prop where
  built : s.lastL ≠ 0
  backup : Memory.readRange s.bak 0 s.lastL.toNat = .ok frame

/-- The built command stays, and the frame has been transmitted `k` times. -/
structure Sent (frame : List Byte) (k : Nat) (s t : State) : Prop where
  cfg : t.cfg = s.cfg
  bak : t.bak = s.bak
  lastL : t.lastL = s.lastL
  tx : txEvents t.history = txEvents s.history ++ List.replicate k frame

section
variable {frame : List Byte} {s t u : State}

theorem Kept.sent (h : Kept s t) : Sent frame 0 s t :=
  ⟨h.cfg, h.bak, h.lastL, h.tx.trans (List.append_nil _).symm⟩

theorem Sent.trans {k l : Nat} (hst : Sent frame k s t) (htu : Sent frame l t u) : Sent frame (k + l) s u :=
  ⟨htu.cfg.trans hst.cfg, htu.bak.trans hst.bak, htu.lastL.trans hst.lastL,
    by rw [htu.tx, hst.tx, List.append_assoc, List.replicate_append_replicate]⟩

theorem Sent.par {k : Nat} (h : Sent frame k s t) : t.par = s.par := congrArg LegalParams.params h.cfg

theorem Sent.loaded {k : Nat} (h : Sent frame k s t) (hloaded : Loaded s frame) : Loaded t frame := by
  constructor
  · rw [h.lastL]
    exact hloaded.built
  · rw [h.bak, h.lastL]
    exact hloaded.backup

/-- A successful `BUILD` loads its frame, and leaves it in `CMD` too. -/
theorem loaded_of_build (hbuild : exec .build s = .next t) (herr : t.err = 0x00) :
    ∃ frame, Loaded t frame ∧ t.cmd = t.bak := by
  obtain ⟨payload, hlo, -, hpayload, rfl⟩ := built_of_no_error hbuild herr
  refine ⟨_, ⟨fun hzero => ?_, readRange_builtCmd hlo hpayload⟩, rfl⟩
  have hzero : s.argL = 0 := hzero
  rw [hzero] at hlo
  exact absurd hlo (by decide)

theorem transmitted_sent (s : State) (frame : List Byte) : Sent frame 1 s (transmitted s frame) :=
  ⟨rfl, rfl, rfl, txEvents_append s.history [.tx frame]⟩

/-- `XMIT` while `CMD` is the backup. -/
theorem exec_xmit_of_loaded (hloaded : Loaded s frame) (hlive : s.cmd = s.bak) :
    exec .xmit s = .next (transmitted s frame) :=
  exec_xmit_of_frame hloaded.built (hlive ▸ hloaded.backup)

theorem attempt_instrs_eq (a : AttemptSteps) :
    a.instrs = a.before ++ .xmit :: (a.during ++ .validate :: a.after) := by
  simp [AttemptSteps.instrs]

/-- Whatever happens around it, an attempt transmits the backup once. -/
theorem attempt_sent {a : AttemptSteps} (hloaded : Loaded s frame) (hlive : s.cmd = s.bak)
    (hsteps : ∀ i ∈ a.steps, betweenAttempts s.par i = true) (h : execAll a.instrs s = .next t) : Sent frame 1 s t := by
  rw [attempt_instrs_eq, execAll_append_eq] at h
  obtain ⟨ready, hbefore, h⟩ := afterNext_next h
  have before : Kept s ready := execAll_kept hbefore fun i hi => hsteps i (by simp [AttemptSteps.steps, hi])
  rw [execAll_cons, exec_xmit_of_loaded (before.sent.loaded hloaded) (before.live hlive), afterNext_of_next] at h
  have later : Kept (transmitted ready frame) t := by
    refine execAll_kept h fun i hi => ?_
    change betweenAttempts ready.par i = true
    rw [before.par]
    obtain hi | rfl | hi : i ∈ a.during ∨ i = .validate ∨ i ∈ a.after := by simpa using hi
    · exact hsteps i (by simp [AttemptSteps.steps, hi])
    · rfl
    · exact hsteps i (by simp [AttemptSteps.steps, hi])
  exact (before.sent.trans (transmitted_sent ready frame)).trans later.sent

/-- Each retry restores the backup and attempts again. -/
theorem retries_sent (retries : List AttemptSteps) (hloaded : Loaded s frame)
    (hsteps : ∀ a ∈ retries, ∀ i ∈ a.steps, betweenAttempts s.par i = true)
    (h : execAll (retries.flatMap fun a => .restore :: a.instrs) s = .next t) : Sent frame retries.length s t := by
  induction retries generalizing s with
  | nil => cases h; exact (Kept.refl _).sent
  | cons a retries ih =>
    rw [List.flatMap_cons, execAll_append_eq, execAll_cons, exec_restore, afterNext_of_next] at h
    obtain ⟨u, hattempt, h⟩ := afterNext_next h
    have restored : Sent frame 0 s { s with cmd := s.bak, err := 0x00 } := (exec_kept (exec_restore s) rfl).sent
    have attempt : Sent frame 1 _ u :=
      attempt_sent (restored.loaded hloaded) rfl (fun i hi => hsteps a List.mem_cons_self i hi) hattempt
    have once := restored.trans attempt
    have later := ih (once.loaded hloaded)
      (fun a' ha' i hi => once.par ▸ hsteps a' (List.mem_cons_of_mem a ha') i hi) h
    have all := once.trans later
    rwa [Nat.zero_add, Nat.add_comm] at all

theorem attempts_sent {first : AttemptSteps} {retries : List AttemptSteps} (hloaded : Loaded s frame)
    (hlive : s.cmd = s.bak) (hsteps : ∀ a ∈ first :: retries, ∀ i ∈ a.steps, betweenAttempts s.par i = true)
    (h : execAll (attemptInstrs first retries) s = .next t) : Sent frame (1 + retries.length) s t := by
  rw [attemptInstrs, execAll_append_eq] at h
  obtain ⟨u, hfirst, h⟩ := afterNext_next h
  have once : Sent frame 1 s u := attempt_sent hloaded hlive (hsteps first List.mem_cons_self) hfirst
  exact once.trans (retries_sent retries (once.loaded hloaded)
    (fun a ha i hi => once.par ▸ hsteps a (List.mem_cons_of_mem first ha) i hi) h)

/-! The attempts run. -/

/-- From the invariant a list of instructions runs, if none of them reads an unwritten byte wherever it starts. -/
theorem execAll_runs {is : List Instr} (inv : BlockInv s)
    (hreads : ∀ i ∈ is, ∀ u : State, u.par = s.par → ReadsWritten u i) : ∃ t, execAll is s = .next t := by
  induction is generalizing s with
  | nil => exact ⟨s, rfl⟩
  | cons i is ih =>
    obtain ⟨u, hu⟩ := everyInstructionRuns i s inv (hreads i List.mem_cons_self s rfl)
    have hpar : u.par = s.par := congrArg LegalParams.params (exec_effect hu).cfg_eq
    obtain ⟨t, ht⟩ := ih (exec_keeps_blockInv hu inv) fun j hj v hv =>
      hreads j (List.mem_cons_of_mem i hj) v (hv.trans hpar)
    exact ⟨t, by rw [execAll_cons, hu, afterNext_of_next, ht]⟩

/-- Of the steps that R163 admits only a host read of a window can meet an unwritten byte. -/
theorem readsWritten_of_between {i : Instr} (hbetween : betweenAttempts s.par i = true)
    (hwindow : readsWindow s.par i = false) : ReadsWritten s i := by
  cases i
  case build => cases hbetween
  case regRead off =>
    change windowWritten s (locate s.par off)
    simp only [readsWindow] at hwindow
    split at hwindow
    case h_1 | h_2 | h_3 => cases hwindow
    case h_4 hloc | h_5 hloc => rw [hloc]; trivial
  case regWrite off v =>
    rintro rfl
    cases hbetween
  all_goals trivial

/-- The received bytes are written: what `VALIDATE` needs to run (log 7). -/
abbrev ReceivedWritten (s : State) : Prop := ∀ i, i < s.rxCnt.toNat → written s.ret i

/-- A step of the transport or of the ready source runs, and what it receives is written. -/
theorem exec_portStep {i : Instr} (hport : portStep i = true) (hreceived : ReceivedWritten s) :
    ∃ t, exec i s = .next t ∧ ReceivedWritten t := by
  cases i
  case rxByte b =>
    obtain hroom | hfull := Nat.lt_or_ge s.rxCnt.toNat s.par.retCap
    · refine ⟨_, exec_rxByte_of_room b hroom, fun i (hi : i < (s.rxCnt + 1).toNat) => ?_⟩
      rw [rxCnt_succ_toNat hroom] at hi
      rw [written, read_write]
      split_ifs with heq
      · rfl
      · exact hreceived i (by omega)
    · exact ⟨s, exec_rxByte_of_full b hfull, hreceived⟩
  case rdyEdge e =>
    refine ⟨_, rfl, ?_⟩
    split_ifs
    · exact hreceived
    · exact hreceived
  all_goals cases hport

theorem execAll_portSteps {is : List Instr} (hport : ∀ i ∈ is, portStep i = true) (hreceived : ReceivedWritten s) :
    ∃ t, execAll is s = .next t ∧ ReceivedWritten t := by
  induction is generalizing s with
  | nil => exact ⟨s, rfl, hreceived⟩
  | cons i is ih =>
    obtain ⟨u, hu, hreceived⟩ := exec_portStep (hport i List.mem_cons_self) hreceived
    obtain ⟨t, ht, hreceived⟩ := ih (fun j hj => hport j (List.mem_cons_of_mem i hj)) hreceived
    exact ⟨t, by rw [execAll_cons, hu, afterNext_of_next, ht], hreceived⟩

/-- The attempt in which only the other agents move, while the host waits. -/
def waitOnly (during : List Instr) : AttemptSteps := { before := [], during, after := [] }

theorem waitOnly_instrs (during : List Instr) : (waitOnly during).instrs = .xmit :: (during ++ [.validate]) := rfl

theorem waitOnly_runs {during : List Instr} (hloaded : Loaded s frame) (hlive : s.cmd = s.bak)
    (hport : ∀ i ∈ during, portStep i = true) : ∃ t, execAll (waitOnly during).instrs s = .next t := by
  obtain ⟨u, hwait, hreceived⟩ := execAll_portSteps (s := transmitted s frame) hport nofun
  obtain ⟨t, hvalidate⟩ := exec_validate_runs hreceived
  refine ⟨t, ?_⟩
  rw [waitOnly_instrs, execAll_cons, exec_xmit_of_loaded hloaded hlive, afterNext_of_next, execAll_append_eq, hwait,
    afterNext_of_next, execAll_cons, hvalidate]
  rfl

theorem betweenAttempts_of_portStep (p : Params) {i : Instr} (h : portStep i = true) : betweenAttempts p i = true := by
  cases i
  case rxByte | rdyEdge => rfl
  all_goals cases h

theorem waitOnly_between (p : Params) {during : List Instr} (hport : ∀ i ∈ during, portStep i = true) :
    ∀ i ∈ (waitOnly during).steps, betweenAttempts p i = true := fun i hi =>
  betweenAttempts_of_portStep p (hport i (by simpa [AttemptSteps.steps, waitOnly] using hi))

theorem retries_waitOnly_run (retries : List (List Instr)) (hloaded : Loaded s frame)
    (hport : ∀ d ∈ retries, ∀ i ∈ d, portStep i = true) :
    ∃ t, execAll ((retries.map waitOnly).flatMap fun a => .restore :: a.instrs) s = .next t := by
  induction retries generalizing s with
  | nil => exact ⟨s, rfl⟩
  | cons d retries ih =>
    have restored : Sent frame 0 s { s with cmd := s.bak, err := 0x00 } := (exec_kept (exec_restore s) rfl).sent
    have hd := hport d List.mem_cons_self
    obtain ⟨u, hu⟩ := waitOnly_runs (restored.loaded hloaded) rfl hd
    have attempt := attempt_sent (restored.loaded hloaded) rfl (waitOnly_between _ hd) hu
    obtain ⟨t, ht⟩ := ih (attempt.loaded (restored.loaded hloaded)) fun d' hd' => hport d' (List.mem_cons_of_mem d hd')
    refine ⟨t, ?_⟩
    rw [List.map_cons, List.flatMap_cons, execAll_append_eq, execAll_cons, exec_restore, afterNext_of_next, hu,
      afterNext_of_next, ht]

theorem attempts_waitOnly_run {first : List Instr} {retries : List (List Instr)} (hloaded : Loaded s frame)
    (hlive : s.cmd = s.bak) (hfirst : ∀ i ∈ first, portStep i = true)
    (hretries : ∀ d ∈ retries, ∀ i ∈ d, portStep i = true) :
    ∃ t, execAll (attemptInstrs (waitOnly first) (retries.map waitOnly)) s = .next t := by
  obtain ⟨u, hu⟩ := waitOnly_runs hloaded hlive hfirst
  have once := attempt_sent hloaded hlive (waitOnly_between _ hfirst) hu
  obtain ⟨t, ht⟩ := retries_waitOnly_run retries (once.loaded hloaded) hretries
  exact ⟨t, by rw [attemptInstrs, execAll_append_eq, hu, afterNext_of_next, ht]⟩

theorem attemptInstrs_waitOnly (first : List Instr) (retries : List (List Instr)) :
    attemptInstrs (waitOnly first) (retries.map waitOnly) =
      (.xmit :: first ++ [.validate]) ++ retries.flatMap fun d => .restore :: .xmit :: d ++ [.validate] := by
  rw [attemptInstrs, List.flatMap_map]
  rfl

/-- The instructions of the attempts are their steps and the three operations. -/
theorem mem_attemptInstrs {first : AttemptSteps} {retries : List AttemptSteps} {i : Instr}
    (h : i ∈ attemptInstrs first retries) :
    i ∈ [.xmit, .validate, .restore] ∨ ∃ a ∈ first :: retries, i ∈ a.steps := by
  simp only [attemptInstrs, AttemptSteps.instrs, AttemptSteps.steps, List.mem_append, List.mem_cons,
    List.mem_flatMap] at h ⊢
  grind

end

/-- Settles O40: with the other agents only, and with every step that R163 admits. -/
theorem retriesTransmitIdenticalBytes : Obligations.RetriesTransmitIdenticalBytes := by
  constructor
  · intro s s0 first retries hbuild herr hfirst hretries
    obtain ⟨frame, hloaded, hlive⟩ := loaded_of_build hbuild herr
    obtain ⟨t, ht⟩ := attempts_waitOnly_run hloaded hlive hfirst hretries
    have hsteps : ∀ a ∈ waitOnly first :: retries.map waitOnly, ∀ i ∈ a.steps, betweenAttempts s0.par i = true := by
      simp only [List.forall_mem_cons, List.forall_mem_map]
      exact ⟨waitOnly_between _ hfirst, fun d hd => waitOnly_between _ (hretries d hd)⟩
    have sent := attempts_sent hloaded hlive hsteps ht
    rw [attemptInstrs_waitOnly] at ht
    rw [List.length_map] at sent
    exact ⟨frame, t, hloaded.backup, ht, sent.tx, sent.bak⟩
  · intro s s0 first retries hbuild herr hsteps
    obtain ⟨frame, hloaded, hlive⟩ := loaded_of_build hbuild herr
    have hpar : s0.par = s.par := congrArg LegalParams.params (exec_effect hbuild).cfg_eq
    refine ⟨frame, hloaded.backup, fun t ht => ?sent, fun inv hwindow => ?runs⟩
    case sent =>
      have sent := attempts_sent hloaded hlive (hpar ▸ hsteps) ht
      exact ⟨sent.tx, sent.bak⟩
    case runs =>
      refine execAll_runs (exec_keeps_blockInv hbuild inv) fun i hi u hu => ?_
      obtain hop | ⟨a, ha, hi⟩ := mem_attemptInstrs hi
      · simp only [List.mem_cons, List.not_mem_nil, or_false] at hop
        obtain rfl | rfl | rfl := hop <;> trivial
      · have hu : u.par = s.par := hu.trans hpar
        exact readsWritten_of_between (hu ▸ hsteps a ha i hi) (hu ▸ hwindow a ha i hi)

end Sys2Proof.Proofs
end

section
/-! `send` (30_encoding.md R103(f), 41_packet_builder.md R162), in both its forms (log 20). -/

namespace Sys2Proof.Proofs

open Sys2Proof.Machine Sys2Proof.Laws Sys2Proof.Safety

/-! The operands that the procedure of R162 writes. -/

/-- A host line that writes an operand register stores the byte. -/
theorem runLines_wr {r : Reg} (hr : r ∈ operandRegs) (v : Byte) (ts : List Transaction) (s : State) :
    runLines (wr r v :: ts) s = runLines ts (storeReg s v r) := by
  have plain : r ∉ [Reg.op, .fwdData, .csData] := by revert r; decide
  have decoded : decode s.par (wr r v) = .ok (decodeWrite (regOffset r) v) := rfl
  rw [runLines_cons decoded, exec_decodeWrite, exec_regWrite_register v plain, afterNext_of_next]

/-- The state after the lines of `args`. -/
def withArgs (s : State) (fc uc len : Byte) (r : Half) (flags : Byte) : State :=
  { s with argFc := fc, argUc := uc, argL := len, argR := r, argFlags := flags.setWidth 2 }

theorem runLines_argsLines (fc uc len : Byte) (r : Half) (flags : Byte) (s : State) :
    runLines (argsLines fc uc len r flags) s = .next (withArgs s fc uc len r flags) := by
  rw [argsLines, runLines_wr (by decide), runLines_wr (by decide), runLines_wr (by decide), runLines_wr (by decide),
    runLines_wr (by decide), runLines_wr (by decide), runLines]
  simp [storeReg, withArgs]

/-- The flags byte gives back the two flags (R27). -/
theorem flagsByte_bits (wait silent : Bool) :
    ((flagsByte wait silent).setWidth 2).getLsbD 0 = wait ∧
      ((flagsByte wait silent).setWidth 2).getLsbD 1 = silent := by
  revert wait silent
  decide

theorem sendCommand_eq (fc uc len : Byte) (r : Half) (wait silent retry : Bool) (first : Attempt) (more : List Attempt)
    (s : State) : sendCommand fc uc len r wait silent retry first more s =
      runSend .sendCycle retry first more (withArgs s fc uc len r (flagsByte wait silent)) := by
  rw [sendCommand, runLines_argsLines, afterNext_of_next]

/-! `send` from `BUILD` on. -/

theorem runLines_opWrite_cons (code : Byte) (ts : List Transaction) (s : State) :
    runLines (opWrite code :: ts) s = afterNext (exec (decodeOp code) s) (runLines ts) :=
  runLines_cons (i := decodeOp code) rfl

theorem runLines_opWrite (code : Byte) (s : State) : runLines [opWrite code] s = exec (decodeOp code) s :=
  runLines_singleton (i := decodeOp code) rfl

section
variable {form : SendForm} {retry : Bool} {first : Attempt} {more : List Attempt} {s s0 : State}

theorem runSend_of_built (hbuild : exec .build s = .next s0) (herr : s0.err = 0x00) :
    runSend form retry first more s =
      afterNext (runLines (first.lead ++ first.restored) s0) fun t =>
        afterNext (runExchange form retry first t) (sendRetries form retry more) := by
  have built : runLines [opWrite 0x02] s = .next s0 := (runLines_opWrite 0x02 s).trans hbuild
  rw [runSend, built, afterNext_of_next]
  exact if_pos herr

theorem runSend_of_rejected (hbuild : exec .build s = .next s0) (herr : s0.err ≠ 0x00) :
    runSend form retry first more s = .next (.failure, s0) := by
  have built : runLines [opWrite 0x02] s = .next s0 := (runLines_opWrite 0x02 s).trans hbuild
  rw [runSend, built, afterNext_of_next]
  exact if_neg herr

end

/-! What a verdict means. -/

/-- The state that a verdict of the host is about (R152, R103(f), R162). -/
structure VerdictHolds (form : SendForm) (retry : Bool) (v : SendVerdict) (t : State) : Prop where
  success : v = .success → t.err = 0x00 ∧ t.ok = true
  retrying : v = .retrying → retry = true ∧
    (t.err ∈ ([0x01, 0x02, 0x03] : List Byte) ∨ (form = .sendCycle ∧ t.err = 0x10))
  failure : v = .failure → t.ok = false ∧
    ((retry = false ∧ t.err ∈ ([0x01, 0x02, 0x03, 0x10] : List Byte)) ∨ (form = .sendLine ∧ t.err = 0x10))

/-- Which failures each form retries: the two differ in `BAD_LENGTH` alone (log 20). -/
theorem retries_of_failure {s : State} {e : ErrorKind} (form : SendForm) (failure : FirstFailure s e) :
    (form.retries (errorCode e) = true ∧
      (errorCode e ∈ ([0x01, 0x02, 0x03] : List Byte) ∨ (form = .sendCycle ∧ errorCode e = 0x10))) ∨
    (form.retries (errorCode e) = false ∧ form = .sendLine ∧ errorCode e = 0x10) := by
  cases failure with
  | length h =>
    cases form with
    | sendLine => exact .inr ⟨rfl, rfl, rfl⟩
    | sendCycle => exact .inl ⟨rfl, .inr ⟨rfl, rfl⟩⟩
  | timeout _ _ h => exact .inl ⟨by cases form <;> rfl, .inl (by decide)⟩
  | header _ h => exact .inl ⟨by cases form <;> rfl, .inl (by decide)⟩
  | checksum _ _ h => exact .inl ⟨by cases form <;> rfl, .inl (by decide)⟩

theorem errorCode_of_failure {s : State} {e : ErrorKind} (failure : FirstFailure s e) :
    errorCode e ≠ errorCode .none ∧ errorCode e ∈ ([0x01, 0x02, 0x03, 0x10] : List Byte) := by
  cases failure <;> decide

/-- A failed check asks for one more attempt or ends the `send`, by the form and by the retry flag. -/
theorem verdictHolds_of_failure {s : State} {e : ErrorKind} (form : SendForm) (retry : Bool)
    (failure : FirstFailure s e) :
    VerdictHolds form retry (form.verdict retry (s.failExchange e).err) (s.failExchange e) := by
  obtain ⟨not_none, listed⟩ := errorCode_of_failure failure
  have verdict : form.verdict retry (errorCode e) =
      if retry && form.retries (errorCode e) then .retrying else .failure := if_neg not_none
  rw [failExchange_err, verdict]
  obtain ⟨retried, which⟩ | ⟨final, which⟩ := retries_of_failure form failure
  · rw [retried, Bool.and_true]
    cases retry with
    | true => exact ⟨nofun, fun _ => ⟨rfl, which⟩, nofun⟩
    | false => exact ⟨nofun, nofun, fun _ => ⟨rfl, .inl ⟨rfl, listed⟩⟩⟩
  · rw [final, Bool.and_false]
    exact ⟨nofun, nofun, fun _ => ⟨rfl, .inr which⟩⟩

theorem verdictHolds_of_accepted (form : SendForm) (retry : Bool) (s : State) :
    VerdictHolds form retry (form.verdict retry (accepted s).err) (accepted s) :=
  ⟨fun _ => ⟨rfl, rfl⟩, nofun, nofun⟩

theorem verdictHolds_of_waiting (form : SendForm) (retry : Bool) (s : State) : VerdictHolds form retry .waiting s :=
  ⟨nofun, nofun, nofun⟩

theorem exec_validate_verdictHolds {s t : State} (form : SendForm) (retry : Bool) (h : exec .validate s = .next t) :
    VerdictHolds form retry (form.verdict retry t.err) t := by
  obtain ⟨e, failure, rfl⟩ | ⟨frame, valid, rfl⟩ := validate_next h
  · exact verdictHolds_of_failure form retry failure
  · exact verdictHolds_of_accepted form retry s

/-! What a `send` that answers has done. -/

/-- The lines carry only steps that R163 admits. -/
def Admitted (p : Params) (ts : List Transaction) : Prop :=
  ∀ x ∈ ts, ∀ i, decode p x = .ok i → betweenAttempts p i = true

theorem runLines_kept {ts : List Transaction} {s t : State} (h : runLines ts s = .next t) (hts : Admitted s.par ts) :
    Kept s t := by
  induction ts generalizing s with
  | nil => cases h; exact Kept.refl _
  | cons x ts ih =>
    cases hx : decode s.par x with
    | error why =>
      rw [runLines, hx] at h
      cases h
    | ok i =>
      rw [runLines_cons hx] at h
      obtain ⟨u, hi, hlater⟩ := afterNext_next h
      have first := exec_kept hi (hts x List.mem_cons_self i hx)
      exact first.trans (ih hlater (first.par ▸ fun y hy => hts y (List.mem_cons_of_mem x hy)))

section
variable {form : SendForm} {retry : Bool} {frame : List Byte} {s t : State} {v : SendVerdict}

theorem finishExchange_next {timedOut : Bool} (h : finishExchange form retry timedOut s = .next (v, t)) :
    Kept s t ∧ VerdictHolds form retry v t := by
  rw [finishExchange] at h
  split_ifs at h
  · rw [runLines_opWrite] at h
    obtain ⟨u, hvalidate, h⟩ := afterNext_next h
    cases h
    exact ⟨exec_kept hvalidate rfl, exec_validate_verdictHolds form retry hvalidate⟩
  · cases h
    exact ⟨Kept.refl s, verdictHolds_of_waiting form retry s⟩

/-- An exchange transmits the backup once, and its verdict is true. -/
theorem runExchange_next {a : Attempt} (hloaded : Loaded s frame) (hlive : s.cmd = s.bak)
    (hduring : Admitted s.par a.during) (h : runExchange form retry a s = .next (v, t)) :
    Sent frame 1 s t ∧ VerdictHolds form retry v t := by
  rw [runExchange, runLines_opWrite_cons] at h
  obtain ⟨u, hrun, hfinish⟩ := afterNext_next h
  have xmit : exec (decodeOp 0x04) s = .next (transmitted s frame) := exec_xmit_of_loaded hloaded hlive
  rw [xmit, afterNext_of_next] at hrun
  have wait := runLines_kept hrun hduring
  obtain ⟨finish, verdict⟩ := finishExchange_next hfinish
  exact ⟨(transmitted_sent s frame).trans (wait.trans finish).sent, verdict⟩

/-- The steps around an attempt. -/
def attemptLines (a : Attempt) : List Transaction := a.lead ++ a.restored ++ a.during

theorem admitted_lines {p : Params} {a : Attempt} (h : Admitted p (attemptLines a)) :
    Admitted p a.lead ∧ Admitted p a.restored ∧ Admitted p a.during :=
  ⟨fun x hx => h x (by simp [attemptLines, hx]), fun x hx => h x (by simp [attemptLines, hx]),
    fun x hx => h x (by simp [attemptLines, hx])⟩

theorem admitted_append {p : Params} {xs ys : List Transaction} (hxs : Admitted p xs) (hys : Admitted p ys) :
    Admitted p (xs ++ ys) := fun x hx => (List.mem_append.mp hx).elim (hxs x) (hys x)

/-- `RESTORE` with the steps on either side of it loads the backup again. -/
theorem runLines_restore {a : Attempt} (hlines : Admitted s.par (attemptLines a))
    (h : runLines (a.lead ++ opWrite 0x06 :: a.restored) s = .next t) : Kept s t ∧ t.cmd = t.bak := by
  obtain ⟨hlead, hrestored, -⟩ := admitted_lines hlines
  rw [runLines_append] at h
  obtain ⟨u, hu, h⟩ := afterNext_next h
  have lead := runLines_kept hu hlead
  have restore : exec (decodeOp 0x06) u = .next { u with cmd := u.bak, err := 0x00 } := exec_restore u
  rw [runLines_opWrite_cons, restore, afterNext_of_next] at h
  have restored : Kept u { u with cmd := u.bak, err := 0x00 } := exec_kept (exec_restore u) rfl
  have later := runLines_kept h (lead.par ▸ hrestored)
  exact ⟨lead.trans (restored.trans later), later.live rfl⟩

/-- The loop transmits the backup once for each attempt that it makes, and goes on only while asked to. -/
theorem sendRetries_next {more : List Attempt} (hloaded : Loaded s frame) (hv : VerdictHolds form retry v s)
    (hlines : ∀ a ∈ more, Admitted s.par (attemptLines a)) {v' : SendVerdict}
    (h : sendRetries form retry more (v, s) = .next (v', t)) :
    ∃ k, k ≤ more.length ∧ (retry = false → k = 0) ∧ (v' = .retrying → k = more.length) ∧ Sent frame k s t ∧
      VerdictHolds form retry v' t := by
  induction more generalizing s v with
  | nil =>
    cases h
    exact ⟨0, le_rfl, fun _ => rfl, fun _ => rfl, (Kept.refl _).sent, hv⟩
  | cons a more ih =>
    cases v with
    | retrying =>
      obtain ⟨hretry, -⟩ := hv.retrying rfl
      have ha := hlines a List.mem_cons_self
      rw [sendRetries] at h
      obtain ⟨u, hu, h⟩ := afterNext_next h
      obtain ⟨restored, hlive⟩ := runLines_restore ha hu
      obtain ⟨⟨w, x⟩, hx, h⟩ := afterNext_next h
      obtain ⟨exchange, hw⟩ := runExchange_next (restored.sent.loaded hloaded) hlive
        (restored.par ▸ (admitted_lines ha).2.2) hx
      have once := restored.sent.trans exchange
      obtain ⟨k, hk, -, hall, later, hv'⟩ :=
        ih (once.loaded hloaded) hw (fun b hb => once.par ▸ hlines b (List.mem_cons_of_mem a hb)) h
      refine ⟨k + 1, Nat.succ_le_succ hk, fun hno => ?_, fun hv' => congrArg Nat.succ (hall hv'), ?_, hv'⟩
      · rw [hretry] at hno
        cases hno
      · have all := once.trans later
        rwa [Nat.zero_add, Nat.add_comm] at all
    | success | failure | waiting =>
      cases h
      exact ⟨0, Nat.zero_le _, fun _ => rfl, nofun, (Kept.refl _).sent, hv⟩

/-- `send` after a successful `BUILD`: one attempt, and then the loop. -/
theorem runSend_next {first : Attempt} {more : List Attempt} {s0 : State} (hbuild : exec .build s = .next s0)
    (herr : s0.err = 0x00) (hloaded : Loaded s0 frame) (hlive : s0.cmd = s0.bak)
    (hlines : ∀ a ∈ first :: more, Admitted s0.par (attemptLines a))
    (h : runSend form retry first more s = .next (v, t)) :
    ∃ k, k ≤ more.length ∧ (retry = false → k = 0) ∧ (v = .retrying → k = more.length) ∧ Sent frame (k + 1) s0 t ∧
      VerdictHolds form retry v t := by
  obtain ⟨hlead, hrestored, hduring⟩ := admitted_lines (hlines first List.mem_cons_self)
  rw [runSend_of_built hbuild herr] at h
  obtain ⟨u, hu, h⟩ := afterNext_next h
  have around := runLines_kept hu (admitted_append hlead hrestored)
  obtain ⟨⟨w, x⟩, hx, h⟩ := afterNext_next h
  obtain ⟨exchange, hw⟩ := runExchange_next (around.sent.loaded hloaded) (around.live hlive) (around.par ▸ hduring) hx
  have once := around.sent.trans exchange
  obtain ⟨k, hk, hno, hall, later, hv⟩ :=
    sendRetries_next (once.loaded hloaded) hw (fun b hb => once.par ▸ hlines b (List.mem_cons_of_mem first hb)) h
  have all := once.trans later
  rw [Nat.zero_add, Nat.add_comm] at all
  exact ⟨k, hk, hno, hall, all, hv⟩

end

/-! A `send` over a transport that answers every attempt. -/

/-- `s` with bytes received from `RX_CNT` on. -/
def withReceived (s : State) (bytes : List Byte) : State :=
  { s with ret := Memory.writes s.ret s.rxCnt.toNat bytes, rxCnt := s.rxCnt + BitVec.ofNat 16 bytes.length }

theorem withReceived_nil (s : State) : withReceived s [] = s := by simp [withReceived, Memory.writes]

theorem withReceived_cons {s : State} (h : s.rxCnt.toNat < s.par.retCap) (b : Byte) (bytes : List Byte) :
    withReceived { s with ret := Memory.write s.ret s.rxCnt.toNat b, rxCnt := s.rxCnt + 1 } bytes =
      withReceived s (b :: bytes) := by
  have total : s.rxCnt + 1 + BitVec.ofNat 16 bytes.length = s.rxCnt + BitVec.ofNat 16 (bytes.length + 1) := by
    rw [Nat.add_comm, BitVec.ofNat_add, ← add_assoc]
    rfl
  simp only [withReceived, Memory.writes, rxCnt_succ_toNat h, List.length_cons, total]

/-- While there is room, every byte of the transport is received. -/
theorem runLines_rx (bytes : List Byte) (s : State) (hroom : s.rxCnt.toNat + bytes.length ≤ s.par.retCap) :
    runLines (bytes.map .rx) s = .next (withReceived s bytes) := by
  induction bytes generalizing s with
  | nil => rw [withReceived_nil]; rfl
  | cons b bytes ih =>
    rw [List.length_cons] at hroom
    have room : s.rxCnt.toNat < s.par.retCap := by omega
    have received : decode s.par (.rx b) = .ok (.rxByte b) := rfl
    rw [List.map_cons, runLines_cons received, exec_rxByte_of_room b room, afterNext_of_next, ih,
      withReceived_cons room]
    rw [rxCnt_succ_toNat room]
    change _ ≤ s.par.retCap
    omega

/-- The state in which the host validates an answer: the frame sent, the answer in `RET`. -/
def answered (s : State) (frame bytes : List Byte) : State :=
  { transmitted s frame with ret := Memory.writes s.ret 0 bytes, rxCnt := BitVec.ofNat 16 bytes.length }

section
variable {form : SendForm} {frame bytes : List Byte} {s : State}

/-- A complete answer to a legal request. -/
structure Answers (s : State) (bytes : List Byte) : Prop where
  lo : 5 ≤ s.argR.toNat
  hi : s.argR.toNat ≤ s.par.retCap
  length : bytes.length = s.argR.toNat

/-- The count of received bytes is the length asked for: `RET_CAP` fits `RX_CNT` (R10(c)). -/
theorem Answers.rxCnt_toNat (h : Answers s bytes) : (BitVec.ofNat 16 bytes.length : Half).toNat = s.argR.toNat := by
  rw [h.length]
  simp

theorem Answers.received (h : Answers s bytes) (frame : List Byte) : Received (answered s frame bytes) bytes :=
  ⟨h.lo, h.hi, h.rxCnt_toNat.ge, readRange_writes_of_length _ 0 h.length⟩

theorem Answers.runExchange (h : Answers s bytes) (hloaded : Loaded s frame) (hlive : s.cmd = s.bak) :
    runExchange form true (answeredBy bytes) s =
      afterNext (exec .validate (answered s frame bytes)) fun t => .next (form.verdict true t.err, t) := by
  have xmit : exec (decodeOp 0x04) s = .next (transmitted s frame) := exec_xmit_of_loaded hloaded hlive
  have room : (transmitted s frame).rxCnt.toNat + bytes.length ≤ (transmitted s frame).par.retCap := by
    change 0 + bytes.length ≤ s.par.retCap
    rw [Nat.zero_add, h.length]
    exact h.hi
  have wait : runLines ((answeredBy bytes).during) (transmitted s frame) = .next (answered s frame bytes) := by
    refine (runLines_rx bytes _ room).trans ?_
    simp [withReceived, transmitted, answered]
  have ready : mayValidate false (answered s frame bytes) = true := by
    rw [mayValidate, decide_eq_true (h.received frame).arrived, Bool.true_or]
  rw [Machine.runExchange, runLines_opWrite_cons, xmit, afterNext_of_next, wait, afterNext_of_next, finishExchange]
  exact (if_pos ready).trans (by rw [runLines_opWrite]; rfl)

theorem runExchange_of_valid (h : Answers s bytes) (hvalid : validAnswer s bytes) (hloaded : Loaded s frame)
    (hlive : s.cmd = s.bak) :
    runExchange form true (answeredBy bytes) s = .next (.success, accepted (answered s frame bytes)) := by
  have valid : ValidFrame (answered s frame bytes) bytes :=
    ⟨h.received frame, hvalid.1, (valid8_iff _).mp hvalid.2⟩
  rw [h.runExchange hloaded hlive, valid.exec_validate]
  rfl

/-- An answer of the right length that is not valid fails the header check or the checksum, which both forms retry. -/
theorem runExchange_of_invalid (h : Answers s bytes) (hinvalid : ¬ validAnswer s bytes) (hloaded : Loaded s frame)
    (hlive : s.cmd = s.bak) :
    ∃ e, runExchange form true (answeredBy bytes) s =
      .next (.retrying, (answered s frame bytes).failExchange e) := by
  rw [h.runExchange hloaded hlive]
  by_cases hheader : bytes.take 4 = frameHeader s.par s.lastFc s.lastUc
  · have hsum : sum8 bytes ≠ 0 := fun hsum => hinvalid ⟨hheader, (valid8_iff _).mpr hsum⟩
    have failure : FirstFailure (answered s frame bytes) .checksumMismatch := .checksum (h.received frame) hheader hsum
    refine ⟨.checksumMismatch, ?_⟩
    rw [failure.exec_validate]
    cases form <;> rfl
  · have failure : FirstFailure (answered s frame bytes) .headerMismatch := .header (h.received frame) hheader
    refine ⟨.headerMismatch, ?_⟩
    rw [failure.exec_validate]
    cases form <;> rfl

/-- The state in which the next attempt starts: a failed answer, and the backup restored. -/
def restoredAfter (s : State) (frame bytes : List Byte) (e : ErrorKind) : State :=
  { (answered s frame bytes).failExchange e with cmd := s.bak, err := 0x00 }

theorem sendRetries_retrying {a : Attempt} {more : List Attempt} {retry : Bool} {t : State} (hlead : a.lead = [])
    (hrestored : a.restored = []) :
    sendRetries form retry (a :: more) (.retrying, t) =
      afterNext (runExchange form retry a { t with cmd := t.bak, err := 0x00 }) (sendRetries form retry more) := by
  have restore : exec (decodeOp 0x06) t = .next { t with cmd := t.bak, err := 0x00 } := exec_restore t
  rw [sendRetries, hlead, hrestored, List.nil_append, runLines_opWrite, restore, afterNext_of_next]

/-- Invalid answers and then a valid one: each attempt starts where the one before it was restored. -/
theorem exchanges_until_valid (bad : List (List Byte)) {good : List Byte} {first : Attempt} {more : List Attempt}
    (hattempts : first :: more = (bad ++ [good]).map answeredBy) (hloaded : Loaded s frame) (hlive : s.cmd = s.bak)
    (hanswers : ∀ bs ∈ bad ++ [good], Answers s bs) (hbad : ∀ bs ∈ bad, ¬ validAnswer s bs)
    (hgood : validAnswer s good) :
    ∃ t, afterNext (runExchange form true first s) (sendRetries form true more) = .next (.success, t) ∧
      Memory.readRange t.ret 0 s.argR.toNat = .ok good ∧
      txEvents t.history = txEvents s.history ++ List.replicate (bad.length + 1) frame := by
  induction bad generalizing s first more with
  | nil =>
    obtain ⟨rfl, rfl⟩ : first = answeredBy good ∧ more = [] := by simpa using hattempts
    have answers := hanswers good (by simp)
    refine ⟨accepted (answered s frame good), ?_, (answers.received frame).bytes, (transmitted_sent s frame).tx⟩
    rw [runExchange_of_valid answers hgood hloaded hlive, afterNext_of_next, sendRetries]
  | cons b bad ih =>
    obtain ⟨rfl, hmore⟩ : first = answeredBy b ∧ more = (bad ++ [good]).map answeredBy := by simpa using hattempts
    obtain ⟨e, exchange⟩ := runExchange_of_invalid (form := form) (hanswers b (by simp)) (hbad b List.mem_cons_self)
      hloaded hlive
    obtain ⟨second, later, rfl⟩ : ∃ second later, more = second :: later :=
      List.exists_cons_of_ne_nil (by simp [hmore])
    obtain ⟨bs, -, hsecond⟩ : ∃ bs ∈ bad ++ [good], answeredBy bs = second :=
      List.mem_map.mp (hmore ▸ List.mem_cons_self)
    have restored : Sent frame 1 s (restoredAfter s frame b e) := { transmitted_sent s frame with }
    obtain ⟨t, run, hret, htx⟩ := ih (s := restoredAfter s frame b e) hmore (restored.loaded hloaded) rfl
      (fun bs hbs => { hanswers bs (List.mem_cons_of_mem b hbs) with })
      (fun bs hbs => hbad bs (List.mem_cons_of_mem b hbs)) hgood
    refine ⟨t, ?_, hret, ?_⟩
    · rw [exchange, afterNext_of_next, sendRetries_retrying (hsecond ▸ rfl) (hsecond ▸ rfl)]
      exact run
    · rw [htx, restored.tx, List.append_assoc, List.replicate_append_replicate, List.length_cons, Nat.add_comm 1]

end

/-- Settles O41: the operands by `sendCommand_eq`, what has happened where `send` answers by `runSend_next`, and that it
answers success by `exchanges_until_valid`. -/
theorem sendTransmitsUntilAValidAnswer : Obligations.SendTransmitsUntilAValidAnswer := by
  constructor
  · intro s fc uc len r wait silent retry first more
    obtain ⟨hwait, hsilent⟩ := flagsByte_bits wait silent
    exact ⟨_, sendCommand_eq .., hwait, hsilent, rfl⟩
  · intro form s s0 first more hbuild
    refine ⟨fun retry herr => runSend_of_rejected hbuild herr, fun herr => ?_⟩
    obtain ⟨frame, hloaded, hlive⟩ := loaded_of_build hbuild herr
    refine ⟨frame, hloaded.backup, fun retry v t hlines h => ?answered,
      fun bad good hattempts hlo hhi hlength hbad hgood => ?runs⟩
    case answered =>
      have hpar : s0.par = s.par := congrArg LegalParams.params (exec_effect hbuild).cfg_eq
      have hlines : ∀ a ∈ first :: more, Admitted s0.par (attemptLines a) := hpar ▸ hlines
      obtain ⟨k, hk, hno, hall, sent, holds⟩ := runSend_next hbuild herr hloaded hlive hlines h
      exact ⟨⟨k, hk, hno, hall, sent.tx⟩, holds.success, holds.retrying, holds.failure⟩
    case runs =>
      obtain ⟨payload, -, -, -, rfl⟩ := built_of_no_error hbuild herr
      obtain ⟨bs, -, hfirst⟩ : ∃ bs ∈ bad ++ [good], answeredBy bs = first :=
        List.mem_map.mp (hattempts ▸ List.mem_cons_self)
      obtain ⟨t, run, hret, htx⟩ := exchanges_until_valid (form := form) bad hattempts hloaded hlive
        (fun bs hbs => ⟨hlo, hhi, hlength bs hbs⟩) hbad hgood
      refine ⟨t, ?_, hret, htx⟩
      rw [runSend_of_built hbuild herr, ← hfirst]
      rw [← hfirst] at run
      exact run

end Sys2Proof.Proofs
end
